-- ==== Sys2Proof/Word.lean ====
section
/-! DEFINITION. The machine's words: bytes, 32-bit words, register numbers, 4-bit protection entries
(10_state.md R12, R30, R31). They are as wide as the defaults of XLEN and NREGS (00_scope.md R7; notes/assumptions 19). -/

namespace Sys2Proof

/-- One byte of the address space (R30). -/
abbrev Byte := BitVec 8

/-- A 32-bit unsigned value: a general register, the PC, SP, FP, an address (R12, R16, R20, R21; XLEN at most). -/
abbrev Word := BitVec 32

/-- A 64-bit counter of the debugger (R35; COUNTER_WIDTH). -/
abbrev Count := BitVec 64

/-- The number of a general register r0..r15 (R12, R67; NREGS at most): every value of a 4-bit field is one. -/
abbrev RegIdx := Fin 16

/-- One page's protection entry, or a set of required permissions: the 4-bit value the host
exchanges (R31, D7). -/
abbrev Prot := BitVec 4

end Sys2Proof
end

