-- ==== Sys2Proof/Config.lean ====
section
/-! DEFINITION. The parameters of 00_scope.md R7: the alternatives of the rule-like ones, the spec's default of each
(`Config`), and `Params`, the record that the decoder, the meanings, the step, reset and the host's commands take
as an argument with these defaults. And the free values (no body). See notes/assumptions 1, 2, 3, 12, 18, 19 and 20. -/

namespace Sys2Proof

/-- The names of the 33 instructions (30_encoding.md R69, R70). OPCODE_MAP gives them numbers. -/
inductive Mnemonic
  | add | sub | mul | neg | div | mod
  | and | or | xor | not | shl | shr
  | load | store | loadb | storeb | loadi
  | move | cmp | test | slt | sle | seq | sne
  | jmp | jz | jnz | jc | jnc | call | ret
  | syscall | halt
deriving DecidableEq, Repr

/-- The host services of SYSCALL (45_system.md R123). SYSCALL_MAP gives them numbers. -/
inductive Service
  | exit | print | read | getTime | sleep | alloc | free
  | openFile | closeFile | readFile | writeFile
deriving DecidableEq, Repr

/-- BYTE_ORDER (D5): how the bytes of a word lie in memory. -/
inductive ByteOrder
  | little | big
deriving DecidableEq, Repr

/-- MUL_V_RULE (D14): the OVERFLOW flag after MUL; the alternatives are those D14 lists. -/
inductive MulVRule
  | signedProduct | zero | unchanged | asCarry
deriving DecidableEq, Repr

/-- LOGIC_CV_POLICY (D17): CARRY and OVERFLOW after the logical and shift instructions. -/
inductive LogicCVPolicy
  | preserve | clear
deriving DecidableEq, Repr

/-- SHR_KIND (D18). -/
inductive ShrKind
  | logical | arithmetic
deriving DecidableEq, Repr

/-- LOADB_EXT (D22): how LOADB extends its byte. -/
inductive LoadbExt
  | zero | sign
deriving DecidableEq, Repr

/-- STORE_DATA_FIELD (D22): the field that names a store's data register; under another row of OPCODE_MAP than the
default one, the operand that the row has in that field's place (the model's choice; notes/assumptions 19). -/
inductive StoreDataField
  | rd | rs1 | rs2
deriving DecidableEq, Repr

/-- NEG_CV_RULE (D15): CARRY and OVERFLOW after NEG; the spec names no alternative to `asSub`, the other two are the
model's (notes/assumptions 2). -/
inductive NegCVRule
  | asSub | unchanged | clear
deriving DecidableEq, Repr

/-- DIV_FLAGS (D16): what DIV and MOD write of the flags; the alternatives to `zn` are the model's
(notes/assumptions 2). -/
inductive DivFlags
  | zn | znClearCV | unchanged
deriving DecidableEq, Repr

/-- TEST_RULE (D19): the flags of TEST, from the AND of its operands; the alternative to `flagsOnlyAnd` is the model's
(notes/assumptions 2). -/
inductive TestRule
  | flagsOnlyAnd | flagsOnlyAndClearCV
deriving DecidableEq, Repr

/-- ZERO_LEN_POLICY (D24): does an access of no bytes succeed? -/
inductive ZeroLenPolicy
  | succeed | fail
deriving DecidableEq, Repr

/-- MEM_RESET (D10): what reset leaves in memory. `keep` lets the reset command keep what was there; a new instance has
zeros then. -/
inductive MemReset
  | fill (b : Byte)
  | keep
deriving DecidableEq, Repr

/-- The condition flags ZERO, NEGATIVE, CARRY, OVERFLOW (10_state.md R23). -/
structure Machine.Flags where
  z : Bool
  n : Bool
  c : Bool
  v : Bool
deriving DecidableEq, Repr

/-- FLAGS_RESET (D9): what reset leaves in the flags. `keep` lets the reset command leave them from before it; a new
instance has zeros then. -/
inductive FlagsReset
  | value (f : Machine.Flags)
  | keep
deriving DecidableEq, Repr

/-- SYS_RESULTS (D32): what r0 holds after EXIT (`none`: what it held), PRINT (`none`: the length), SLEEP and FREE. -/
structure SysResults where
  exit : Option Word := none
  print : Option Word := none
  sleep : Word := 0#32
  free : Word := 0#32
deriving DecidableEq, Repr

/-- FIELD_LAYOUT (D2, R60): the lowest bit of each field. -/
structure FieldLayout where
  opcodeLo : Nat := 24
  rdLo : Nat := 16
  rs1Lo : Nat := 12
  rs2Lo : Nat := 8
  imm16Lo : Nat := 0
  imm24Lo : Nat := 0
deriving DecidableEq, Repr

/-- FAULT_CODES (D31). -/
structure FaultCodes where
  fetchFault : Nat := 1
  invalidOpcode : Nat := 2
  loadFault : Nat := 3
  storeFault : Nat := 4
  divZero : Nat := 5
deriving DecidableEq, Repr

/-- STATUS_CODES (D31). -/
structure StatusCodes where
  cont : Nat := 0
  halted : Nat := 1
  paused : Nat := 2
  error : Nat := 3
deriving DecidableEq, Repr

/-- The three formats (R61 to R63), each with the operand fields it offers. -/
inductive Format
  | r | i | j
deriving DecidableEq, Repr

/-- The three register fields of a word (R61). -/
inductive RegField
  | rd | rs1 | rs2
deriving DecidableEq, Repr

/-- A row of R69's table: the number (D1), the mnemonic, the format and the fields used (D3). An instruction has a
destination (STORE's and STOREB's data register), a first and a second source, as its mnemonic asks; `dest`, `first`
and `second` are the fields they are read from, and the one of an operand the mnemonic has not is not used. -/
structure OpcodeRow where
  number : BitVec 8
  mnemonic : Mnemonic
  format : Format := .r
  dest : RegField := .rd
  first : RegField := .rs1
  second : RegField := .rs2
deriving DecidableEq, Repr

/-- OPCODE_MAP as an argument of the decoder and the encoder (R69: "a model must take OPCODE_MAP as
an argument"). -/
abbrev OpcodeMap := List OpcodeRow

/-- The argument registers of a service (R122, R123): the first (an exit code, an address, an amount, a size) and the
second (a length). No service takes a third. -/
structure SyscallArgs where
  first : RegIdx := 1
  second : RegIdx := 2
deriving DecidableEq, Repr

/-- A row of R123's table: the number, the service and its argument registers (D4). -/
structure SyscallRow where
  number : Word
  service : Service
  args : SyscallArgs := {}
deriving DecidableEq, Repr

/-- SYSCALL_MAP as an argument of the dispatcher (R123). -/
abbrev SyscallMap := List SyscallRow

/-- One operand as the assembly syntax writes it (R73): a register, a signed immediate, a jump target. -/
inductive Operand
  | reg (r : RegIdx)
  | imm (v : Int)
  | target (v : Int)
deriving DecidableEq, Repr

/-- What the disassembler says of a word (R77): a legal opcode's mnemonic and operands, or the raw word. -/
inductive Disassembly
  | legal (m : Mnemonic) (operands : List Operand)
  | raw (w : Word)
deriving DecidableEq, Repr

namespace Config

/-- PAGE_SIZE (R7, R30). -/
def pageSize : Nat := 256

/-- NPAGES (R7, R30). -/
def npages : Nat := 256

/-- MEM_SIZE = NPAGES x PAGE_SIZE (R7, R30). -/
def memSize : Nat := npages * pageSize

/-- XLEN (R7, R12): the width of the registers, the PC, SP and FP. -/
def xlen : Nat := 32

/-- NREGS (R7, R12). -/
def nregs : Nat := 16

/-- INSN_BYTES (R7, R59): the source's "one 32-bit word". -/
def insnBytes : Nat := 4

/-- SP_RESET = MEM_SIZE - 4 (R22). -/
def spReset : Word := BitVec.ofNat 32 (memSize - 4)

/-- PROT_BITS (R31, D7): present. -/
def protP : Prot := 0x1#4

/-- PROT_BITS (R31, D7): read. -/
def protR : Prot := 0x2#4

/-- PROT_BITS (R31, D7): write. -/
def protW : Prot := 0x4#4

/-- PROT_BITS (R31, D7): execute. -/
def protX : Prot := 0x8#4

/-- DEFAULT_LAYOUT (R32): the regions as a number of pages and their protection, from page 0 on, under the given
protection bits: Code (P, R, X), Heap (P, R, W), Reserved (none), Stack (P, R, W). -/
def layoutOf (p r w x : Prot) : List (Nat × Prot) :=
  [(64, p ||| r ||| x), (128, p ||| r ||| w), (32, 0#4), (32, p ||| r ||| w)]

/-- What an address that memory does not list reads as (notes/assumptions 14): MEM_RESET's default (R30, D10). -/
def unlistedByte : Byte := 0#8

/-- HEAP_BASE (R33, D34). -/
def heapBase : Word := 0x4000#32

/-- HEAP_SIZE (R33, D34). -/
def heapSize : Word := 0x8000#32

/-- MAX_BREAKPOINTS (R35, D35). -/
def maxBreakpoints : Nat := 16

/-- OPCODE_MAP, the rows 0x00..0x05 (R69, D1, D3). -/
def opcodesArithmetic : OpcodeMap :=
  [{ number := 0x00#8, mnemonic := .add },
   { number := 0x01#8, mnemonic := .sub },
   { number := 0x02#8, mnemonic := .mul },
   { number := 0x03#8, mnemonic := .neg },
   { number := 0x04#8, mnemonic := .div },
   { number := 0x05#8, mnemonic := .mod }]

/-- OPCODE_MAP, the rows 0x06..0x0B (R69, D1, D3). -/
def opcodesLogical : OpcodeMap :=
  [{ number := 0x06#8, mnemonic := .and },
   { number := 0x07#8, mnemonic := .or },
   { number := 0x08#8, mnemonic := .xor },
   { number := 0x09#8, mnemonic := .not },
   { number := 0x0A#8, mnemonic := .shl },
   { number := 0x0B#8, mnemonic := .shr }]

/-- OPCODE_MAP, the rows 0x0C..0x10 (R69, D1, D3). -/
def opcodesMemoryOps : OpcodeMap :=
  [{ number := 0x0C#8, mnemonic := .load },
   { number := 0x0D#8, mnemonic := .store },
   { number := 0x0E#8, mnemonic := .loadb },
   { number := 0x0F#8, mnemonic := .storeb },
   { number := 0x10#8, mnemonic := .loadi, format := .i }]

/-- OPCODE_MAP, the rows 0x11..0x17 (R69, D1, D3). -/
def opcodesMoveCompare : OpcodeMap :=
  [{ number := 0x11#8, mnemonic := .move },
   { number := 0x12#8, mnemonic := .cmp },
   { number := 0x13#8, mnemonic := .test },
   { number := 0x14#8, mnemonic := .slt },
   { number := 0x15#8, mnemonic := .sle },
   { number := 0x16#8, mnemonic := .seq },
   { number := 0x17#8, mnemonic := .sne }]

/-- OPCODE_MAP, the rows 0x18..0x1E (R69, D1, D3). -/
def opcodesControlFlow : OpcodeMap :=
  [{ number := 0x18#8, mnemonic := .jmp, format := .j },
   { number := 0x19#8, mnemonic := .jz, format := .j },
   { number := 0x1A#8, mnemonic := .jnz, format := .j },
   { number := 0x1B#8, mnemonic := .jc, format := .j },
   { number := 0x1C#8, mnemonic := .jnc, format := .j },
   { number := 0x1D#8, mnemonic := .call, format := .j },
   { number := 0x1E#8, mnemonic := .ret }]

/-- OPCODE_MAP, the rows 0x1F, 0x20 (R69, D1, D3). -/
def opcodesSystem : OpcodeMap :=
  [{ number := 0x1F#8, mnemonic := .syscall },
   { number := 0x20#8, mnemonic := .halt }]

/-- OPCODE_MAP (R69, D1, D3). -/
def opcodeMap : OpcodeMap :=
  opcodesArithmetic ++ opcodesLogical ++ opcodesMemoryOps ++ opcodesMoveCompare ++ opcodesControlFlow
    ++ opcodesSystem

/-- SYSCALL_MAP (R123, D4). -/
def syscallMap : SyscallMap :=
  [{ number := 0#32, service := .exit },
   { number := 1#32, service := .print },
   { number := 2#32, service := .read },
   { number := 3#32, service := .getTime },
   { number := 4#32, service := .sleep },
   { number := 5#32, service := .alloc },
   { number := 6#32, service := .free },
   { number := 7#32, service := .openFile },
   { number := 8#32, service := .closeFile },
   { number := 9#32, service := .readFile },
   { number := 10#32, service := .writeFile }]

/-- BYTE_ORDER (R49, D5). -/
def byteOrder : ByteOrder := .little

/-- MUL_V_RULE (R84, D14). -/
def mulVRule : MulVRule := .signedProduct

/-- LOGIC_CV_POLICY (R88, D17). -/
def logicCVPolicy : LogicCVPolicy := .preserve

/-- SHR_KIND (R95, D18). -/
def shrKind : ShrKind := .logical

/-- LOADB_EXT (R100, D22). -/
def loadbExt : LoadbExt := .zero

/-- RUN_STOPS_ON_PAUSE (R139, D30). -/
def runStopsOnPause : Bool := true

/-- The failure value of a syscall (R122, R131, R132): -1 as a 32-bit value; the source's, no parameter. -/
def minusOne : Word := 0xFFFFFFFF#32

/-- FREE VALUE (READ_INPUT, R126, R153, D33, IB3; notes/assumptions 3): the bytes the host gives to the
n-th READ of an instance that it answers by itself. No body: nothing is known of it. THE MODEL'S CHOICE: it depends on n
alone, so two instances get the same answer to their n-th such READ, where the spec has independent draws
(notes/assumptions 3, 9: DESIGN CHOICE, unsafe for a claim about two instances). -/
opaque hostReply : Nat → List Byte

/-- FREE VALUE (R77, D43, IB4; notes/assumptions 12): the text the disassembler writes. No body. -/
opaque disassemblyText : Disassembly → String

end Config

/-- The parameters of R7 that a model takes as arguments, each at its default (D44: "even the source values are
defaults of named parameters"). Every definition that depends on one takes a `Params` as its last argument, with
`Params.default` as the argument's default. -/
structure Params where
  /-- XLEN: at most the 32 bits that hold a register (notes/assumptions 19). -/
  xlen : Nat := Config.xlen
  /-- NREGS: at most the 16 registers that a 4-bit field names (notes/assumptions 19). -/
  nregs : Nat := Config.nregs
  /-- INSN_BYTES. -/
  insnBytes : Nat := Config.insnBytes
  /-- PAGE_SIZE. -/
  pageSize : Nat := Config.pageSize
  /-- NPAGES. -/
  npages : Nat := Config.npages
  /-- SP_RESET. -/
  spReset : Word := BitVec.ofNat 32 (npages * pageSize - 4)
  /-- HEAP_BASE. -/
  heapBase : Word := Config.heapBase
  /-- HEAP_SIZE. -/
  heapSize : Word := Config.heapSize
  /-- MAX_BREAKPOINTS. -/
  maxBreakpoints : Nat := Config.maxBreakpoints
  /-- COUNTER_WIDTH: at most the 64 bits that hold a counter (notes/assumptions 1). -/
  counterWidth : Nat := 64
  /-- TICK_WIDTH: at most the 32 bits that GET_TIME answers (notes/assumptions 1). -/
  tickWidth : Nat := 32
  /-- EXIT_CODE_WIDTH: EXIT gives it 32 bits, so a greater width holds the same value. -/
  exitCodeWidth : Nat := 32
  /-- OPCODE_MAP. -/
  opcodeMap : OpcodeMap := Config.opcodeMap
  /-- SYSCALL_MAP. -/
  syscallMap : SyscallMap := Config.syscallMap
  /-- PROT_BITS: present. -/
  protP : Prot := Config.protP
  /-- PROT_BITS: read. -/
  protR : Prot := Config.protR
  /-- PROT_BITS: write. -/
  protW : Prot := Config.protW
  /-- PROT_BITS: execute. -/
  protX : Prot := Config.protX
  /-- BYTE_ORDER. -/
  byteOrder : ByteOrder := Config.byteOrder
  /-- MUL_V_RULE. -/
  mulVRule : MulVRule := Config.mulVRule
  /-- LOGIC_CV_POLICY. -/
  logicCVPolicy : LogicCVPolicy := Config.logicCVPolicy
  /-- FIELD_LAYOUT. -/
  fieldLayout : FieldLayout := {}
  /-- DEFAULT_LAYOUT. -/
  layout : List (Nat × Prot) := Config.layoutOf protP protR protW protX
  /-- FLAGS_RESET. -/
  flagsReset : FlagsReset := .value { z := false, n := false, c := false, v := false }
  /-- MEM_RESET. -/
  memReset : MemReset := .fill Config.unlistedByte
  /-- NEG_CV_RULE. -/
  negCVRule : NegCVRule := .asSub
  /-- DIV_SIGNED. -/
  divSigned : Bool := false
  /-- DIV_FLAGS. -/
  divFlags : DivFlags := .zn
  /-- SHR_KIND. -/
  shrKind : ShrKind := Config.shrKind
  /-- TEST_RULE. -/
  testRule : TestRule := .flagsOnlyAnd
  /-- STORE_DATA_FIELD. -/
  storeDataField : StoreDataField := .rd
  /-- LOADB_EXT. -/
  loadbExt : LoadbExt := Config.loadbExt
  /-- ZERO_LEN_POLICY. -/
  zeroLenPolicy : ZeroLenPolicy := .succeed
  /-- BP_SKIP_ONCE. -/
  bpSkipOnce : Bool := false
  /-- RUN_STOPS_ON_PAUSE. -/
  runStopsOnPause : Bool := Config.runStopsOnPause
  /-- FAULT_CODES. -/
  faultCodes : FaultCodes := {}
  /-- STATUS_CODES. -/
  statusCodes : StatusCodes := {}
  /-- SYS_RESULTS. -/
  sysResults : SysResults := {}
  /-- READ_INPUT: the answers the host has not lined up; a draw, by default the free value. -/
  readInput : Nat → List Byte := Config.hostReply
  /-- READ_TERMINATOR. -/
  readTerminator : Option Byte := none

/-- Every parameter at the spec's default. -/
def Params.default : Params := {}

/-- MEM_SIZE = NPAGES x PAGE_SIZE (R7, R30, R39). -/
def Params.memSize (P : Params) : Nat := P.npages * P.pageSize

end Sys2Proof
end

