-- ==== Sys2Proof/Syntax.lean ====
section
/-! DEFINITION. The instructions, one constructor per row of spec/opcode_table.json (30_encoding.md R69),
with the fields the row uses, in the order of its assembly column. -/

namespace Sys2Proof

/-- One instruction. Immediates are the signed operands of R65 and R66 (R76 states their ranges, which
WellFormed checks); the encoder cuts them to their fields and the decoder sign-extends them back
(notes/assumptions 11). -/
inductive Instr
  -- arithmetic (40_arithmetic.md)
  | add (rd rs1 rs2 : RegIdx)
  | sub (rd rs1 rs2 : RegIdx)
  | mul (rd rs1 rs2 : RegIdx)
  | neg (rd rs1 : RegIdx)
  | div (rd rs1 rs2 : RegIdx)
  | mod (rd rs1 rs2 : RegIdx)
  -- logical and shift (41_logical_shift.md)
  | and (rd rs1 rs2 : RegIdx)
  | or (rd rs1 rs2 : RegIdx)
  | xor (rd rs1 rs2 : RegIdx)
  | not (rd rs1 : RegIdx)
  | shl (rd rs1 rs2 : RegIdx)
  | shr (rd rs1 rs2 : RegIdx)
  -- memory (42_memory_ops.md); the rd of a store is its data register
  | load (rd rs1 rs2 : RegIdx)
  | store (rd rs1 rs2 : RegIdx)
  | loadb (rd rs1 rs2 : RegIdx)
  | storeb (rd rs1 rs2 : RegIdx)
  | loadi (rd : RegIdx) (imm : Int)
  -- move, compare, set (43_move_compare.md)
  | move (rd rs1 : RegIdx)
  | cmp (rs1 rs2 : RegIdx)
  | test (rs1 rs2 : RegIdx)
  | slt (rd rs1 rs2 : RegIdx)
  | sle (rd rs1 rs2 : RegIdx)
  | seq (rd rs1 rs2 : RegIdx)
  | sne (rd rs1 rs2 : RegIdx)
  -- control transfer (44_control_flow.md)
  | jmp (target : Int)
  | jz (target : Int)
  | jnz (target : Int)
  | jc (target : Int)
  | jnc (target : Int)
  | call (target : Int)
  | ret
  -- system (45_system.md)
  | syscall
  | halt
deriving DecidableEq, Repr

end Sys2Proof
end

