-- ==== Sys2Proof/WellFormed.lean ====
section
/-! DEFINITION. Which instructions have a word: a signed 16-bit immediate (30_encoding.md R65) and a signed
24-bit target (R66, R76). Register numbers are r0..r15 by their type (R67). -/

namespace Sys2Proof

/-- R65, R76: an I-type immediate is in -32768..32767. -/
def imm16InRange (v : Int) : Bool := decide (-32768 ≤ v) && decide (v ≤ 32767)

/-- R66, R76: a J-type target is in -2^23..2^23 - 1. -/
def imm24InRange (v : Int) : Bool := decide (-8388608 ≤ v) && decide (v ≤ 8388607)

/-- The instruction's immediate, if it has one, fits its field. -/
def Instr.wellFormed (i : Instr) : Bool :=
  match i with
  | .loadi _ imm => imm16InRange imm
  | .jmp t => imm24InRange t
  | .jz t => imm24InRange t
  | .jnz t => imm24InRange t
  | .jc t => imm24InRange t
  | .jnc t => imm24InRange t
  | .call t => imm24InRange t
  | .add _ _ _ => true
  | .sub _ _ _ => true
  | .mul _ _ _ => true
  | .neg _ _ => true
  | .div _ _ _ => true
  | .mod _ _ _ => true
  | .and _ _ _ => true
  | .or _ _ _ => true
  | .xor _ _ _ => true
  | .not _ _ => true
  | .shl _ _ _ => true
  | .shr _ _ _ => true
  | .load _ _ _ => true
  | .store _ _ _ => true
  | .loadb _ _ _ => true
  | .storeb _ _ _ => true
  | .move _ _ => true
  | .cmp _ _ => true
  | .test _ _ => true
  | .slt _ _ _ => true
  | .sle _ _ _ => true
  | .seq _ _ _ => true
  | .sne _ _ _ => true
  | .ret => true
  | .syscall => true
  | .halt => true

end Sys2Proof
end

