-- ==== Sys2Proof/Decode.lean ====
section
/-! DEFINITION. From bytes to an instruction or a rejection by name, and back: the fields of a word
(30_encoding.md R60 to R63), the opcode map as an argument (R69), the decoder (R68, R71), the encoders
(R75). The byte-order helpers stand here too, because fetch and data use one order (20_memory.md R49). A last argument
with a default is the parameters (R7) or the one of them that matters. -/

namespace Sys2Proof

/-- A value of `width` bits in the `n` bits that hold it (XLEN, COUNTER_WIDTH, TICK_WIDTH, EXIT_CODE_WIDTH). -/
def wrapTo {n : Nat} (width : Nat) (v : BitVec n) : BitVec n :=
  if n ≤ width then v else BitVec.ofNat n (v.toNat % 2 ^ width)

/-- The number that n bytes write, the first byte the least significant (R47). -/
def bytesToNat : List Byte → Nat
  | [] => 0
  | b :: bs => b.toNat + 256 * bytesToNat bs

/-- The n low bytes of a number, the least significant first (R48). -/
def natToBytes : Nat → Nat → List Byte
  | 0, _ => []
  | n + 1, v => BitVec.ofNat 8 v :: natToBytes n (v / 256)

/-- BYTE_ORDER (R49, D5): from memory order to least-significant-first, and the same way back. -/
def ByteOrder.arrange (o : ByteOrder) (bs : List Byte) : List Byte :=
  match o with
  | .little => bs
  | .big => bs.reverse

/-- The word that the bytes of memory, in address order, hold (R47, R49). -/
def wordOfBytes (bs : List Byte) (o : ByteOrder := Config.byteOrder) : Word :=
  BitVec.ofNat 32 (bytesToNat (o.arrange bs))

/-- The bytes, in address order, that hold the n low bytes of a number (R48, R49). -/
def bytesOfNat (n v : Nat) (o : ByteOrder := Config.byteOrder) : List Byte :=
  o.arrange (natToBytes n v)

/-- `sext_N` of R8 for an N-bit field, to 32 bits. -/
def sext {n : Nat} (v : BitVec n) : Word := v.signExtend 32

/-- The fields of a word; which of them an instruction uses depends on its opcode (R68). -/
structure Fields where
  opcode : BitVec 8
  rd : RegIdx
  rs1 : RegIdx
  rs2 : RegIdx
  imm16 : BitVec 16
  imm24 : BitVec 24
deriving DecidableEq, Repr

/-- The 4-bit register field whose lowest bit is `lo` (R61, R67). -/
def regField (lo : Nat) (w : Word) : RegIdx := (w.extractLsb' lo 4).toFin

/-- R68: the decoder proper, a total pure function of the word. -/
def decodeFields (w : Word) (L : FieldLayout := {}) : Fields where
  opcode := w.extractLsb' L.opcodeLo 8
  rd := regField L.rdLo w
  rs1 := regField L.rs1Lo w
  rs2 := regField L.rs2Lo w
  imm16 := w.extractLsb' L.imm16Lo 16
  imm24 := w.extractLsb' L.imm24Lo 24

/-- Why bytes are no instruction: fewer of them than an instruction has, an opcode that OPCODE_MAP does not list
(R71; the step turns it into INVALID_OPCODE, C1), or, where NREGS is below 16, a register the machine has not
(notes/assumptions 19). -/
inductive DecodeReject
  | truncated
  | invalidOpcode (opcode : BitVec 8)
  | noRegister
deriving DecidableEq, Repr

/-- The register a field names. -/
def Fields.reg (f : Fields) (field : RegField) : RegIdx :=
  match field with
  | .rd => f.rd
  | .rs1 => f.rs1
  | .rs2 => f.rs2

/-- The signed immediate of a format (R65, R66); the R format has none, and 0 stands for it. -/
def Fields.imm (f : Fields) (format : Format) : Int :=
  match format with
  | .r => 0
  | .i => f.imm16.toInt
  | .j => f.imm24.toInt

/-- The instruction that a row of OPCODE_MAP makes of a word's fields (R69, columns "format" and "fields used"); the
other fields are don't-care (R64). The data operand of STORE and STOREB is placed here like any other, before
STORE_DATA_FIELD picks among the operands (the model's choice; notes/assumptions 19). -/
def Fields.build (f : Fields) (row : OpcodeRow) : Instr :=
  let d := f.reg row.dest
  let a := f.reg row.first
  let b := f.reg row.second
  let v := f.imm row.format
  match row.mnemonic with
  | .add => .add d a b
  | .sub => .sub d a b
  | .mul => .mul d a b
  | .neg => .neg d a
  | .div => .div d a b
  | .mod => .mod d a b
  | .and => .and d a b
  | .or => .or d a b
  | .xor => .xor d a b
  | .not => .not d a
  | .shl => .shl d a b
  | .shr => .shr d a b
  | .load => .load d a b
  | .store => .store d a b
  | .loadb => .loadb d a b
  | .storeb => .storeb d a b
  | .loadi => .loadi d v
  | .move => .move d a
  | .cmp => .cmp a b
  | .test => .test a b
  | .slt => .slt d a b
  | .sle => .sle d a b
  | .seq => .seq d a b
  | .sne => .sne d a b
  | .jmp => .jmp v
  | .jz => .jz v
  | .jnz => .jnz v
  | .jc => .jc v
  | .jnc => .jnc v
  | .call => .call v
  | .ret => .ret
  | .syscall => .syscall
  | .halt => .halt

/-- The row a map gives an opcode number. -/
def OpcodeMap.rowOf (map : OpcodeMap) (opcode : BitVec 8) : Option OpcodeRow :=
  map.find? (fun row => row.number == opcode)

/-- The row a map gives a mnemonic. -/
def OpcodeMap.rowFor (map : OpcodeMap) (m : Mnemonic) : Option OpcodeRow :=
  map.find? (fun row => row.mnemonic == m)

/-- The mnemonic a map gives an opcode number. -/
def OpcodeMap.mnemonicOf (map : OpcodeMap) (opcode : BitVec 8) : Option Mnemonic :=
  (map.rowOf opcode).map (·.mnemonic)

/-- The opcode number a map gives a mnemonic. -/
def OpcodeMap.numberOf (map : OpcodeMap) (m : Mnemonic) : Option (BitVec 8) :=
  (map.rowFor m).map (·.number)

/-- R68, R69, R71: the instruction of a word under an opcode map. -/
def decodeWith (map : OpcodeMap) (w : Word) (L : FieldLayout := {}) :
    Except DecodeReject Instr :=
  let f := decodeFields w L
  match map.rowOf f.opcode with
  | some row => .ok (f.build row)
  | none => .error (.invalidOpcode f.opcode)

/-- What an instruction says besides its mnemonic: the registers and the immediate it has. -/
structure Operands where
  dest : Option RegIdx := none
  first : Option RegIdx := none
  second : Option RegIdx := none
  imm : Option Int := none
deriving DecidableEq, Repr

/-- The operands of an instruction. -/
def Instr.operands (i : Instr) : Operands :=
  match i with
  | .add d a b => { dest := some d, first := some a, second := some b }
  | .sub d a b => { dest := some d, first := some a, second := some b }
  | .mul d a b => { dest := some d, first := some a, second := some b }
  | .neg d a => { dest := some d, first := some a }
  | .div d a b => { dest := some d, first := some a, second := some b }
  | .mod d a b => { dest := some d, first := some a, second := some b }
  | .and d a b => { dest := some d, first := some a, second := some b }
  | .or d a b => { dest := some d, first := some a, second := some b }
  | .xor d a b => { dest := some d, first := some a, second := some b }
  | .not d a => { dest := some d, first := some a }
  | .shl d a b => { dest := some d, first := some a, second := some b }
  | .shr d a b => { dest := some d, first := some a, second := some b }
  | .load d a b => { dest := some d, first := some a, second := some b }
  | .store d a b => { dest := some d, first := some a, second := some b }
  | .loadb d a b => { dest := some d, first := some a, second := some b }
  | .storeb d a b => { dest := some d, first := some a, second := some b }
  | .loadi d v => { dest := some d, imm := some v }
  | .move d a => { dest := some d, first := some a }
  | .cmp a b => { first := some a, second := some b }
  | .test a b => { first := some a, second := some b }
  | .slt d a b => { dest := some d, first := some a, second := some b }
  | .sle d a b => { dest := some d, first := some a, second := some b }
  | .seq d a b => { dest := some d, first := some a, second := some b }
  | .sne d a b => { dest := some d, first := some a, second := some b }
  | .jmp v => { imm := some v }
  | .jz v => { imm := some v }
  | .jnz v => { imm := some v }
  | .jc v => { imm := some v }
  | .jnc v => { imm := some v }
  | .call v => { imm := some v }
  | .ret => {}
  | .syscall => {}
  | .halt => {}

/-- The registers of an instruction with the fields a row reads them from. -/
def Operands.placed (o : Operands) (row : OpcodeRow) : List (RegField × RegIdx) :=
  (o.dest.map (fun r => (row.dest, r))).toList ++ (o.first.map (fun r => (row.first, r))).toList
    ++ (o.second.map (fun r => (row.second, r))).toList

/-- NREGS (R7): does the machine have the register, if there is one? -/
def registerExists (nregs : Nat) (r : Option RegIdx) : Bool :=
  match r with
  | some r => decide (r.val < nregs)
  | none => true

/-- NREGS (R7): does the machine have the registers an instruction names? -/
def Operands.exist (o : Operands) (nregs : Nat) : Bool :=
  registerExists nregs o.dest && registerExists nregs o.first && registerExists nregs o.second

/-- The instruction of a word under the parameters' map and layout. -/
def decodeWord (w : Word) (P : Params := Params.default) : Except DecodeReject Instr :=
  match decodeWith P.opcodeMap w P.fieldLayout with
  | .ok i => if i.operands.exist P.nregs then .ok i else .error .noRegister
  | .error e => .error e

/-- Decoding any bytes: INSN_BYTES of them make one word (R59), the rest is left over. -/
def decode (bs : List Byte) (P : Params := Params.default) : Except DecodeReject (Instr × List Byte) :=
  if bs.length < P.insnBytes then .error .truncated
  else
    match decodeWord (wordOfBytes (bs.take P.insnBytes) P.byteOrder) P with
    | .ok i => .ok (i, bs.drop P.insnBytes)
    | .error e => .error e

/-- R75: `encode_r`. Fields are cut to their widths; ignored bits are 0. -/
def encodeR (op rd rs1 rs2 : Nat) (L : FieldLayout := {}) : Word :=
  ((BitVec.ofNat 8 op).setWidth 32 <<< L.opcodeLo)
    ||| ((BitVec.ofNat 4 rd).setWidth 32 <<< L.rdLo)
    ||| ((BitVec.ofNat 4 rs1).setWidth 32 <<< L.rs1Lo)
    ||| ((BitVec.ofNat 4 rs2).setWidth 32 <<< L.rs2Lo)

/-- R75: `encode_i`. -/
def encodeI (op rd : Nat) (imm : Int) (L : FieldLayout := {}) : Word :=
  ((BitVec.ofNat 8 op).setWidth 32 <<< L.opcodeLo)
    ||| ((BitVec.ofNat 4 rd).setWidth 32 <<< L.rdLo)
    ||| ((BitVec.ofInt 16 imm).setWidth 32 <<< L.imm16Lo)

/-- R75: `encode_j`. -/
def encodeJ (op : Nat) (imm : Int) (L : FieldLayout := {}) : Word :=
  ((BitVec.ofNat 8 op).setWidth 32 <<< L.opcodeLo)
    ||| ((BitVec.ofInt 24 imm).setWidth 32 <<< L.imm24Lo)

/-- The mnemonic of an instruction. -/
def Instr.mnemonic (i : Instr) : Mnemonic :=
  match i with
  | .add _ _ _ => .add
  | .sub _ _ _ => .sub
  | .mul _ _ _ => .mul
  | .neg _ _ => .neg
  | .div _ _ _ => .div
  | .mod _ _ _ => .mod
  | .and _ _ _ => .and
  | .or _ _ _ => .or
  | .xor _ _ _ => .xor
  | .not _ _ => .not
  | .shl _ _ _ => .shl
  | .shr _ _ _ => .shr
  | .load _ _ _ => .load
  | .store _ _ _ => .store
  | .loadb _ _ _ => .loadb
  | .storeb _ _ _ => .storeb
  | .loadi _ _ => .loadi
  | .move _ _ => .move
  | .cmp _ _ => .cmp
  | .test _ _ => .test
  | .slt _ _ _ => .slt
  | .sle _ _ _ => .sle
  | .seq _ _ _ => .seq
  | .sne _ _ _ => .sne
  | .jmp _ => .jmp
  | .jz _ => .jz
  | .jnz _ => .jnz
  | .jc _ => .jc
  | .jnc _ => .jnc
  | .call _ => .call
  | .ret => .ret
  | .syscall => .syscall
  | .halt => .halt

/-- The number that the operands put in a field; 0 in a field that none of them is placed in (R75). -/
def inField (placed : List (RegField × RegIdx)) (field : RegField) : Nat :=
  match placed.find? (fun e => e.1 == field) with
  | some e => e.2.val
  | none => 0

/-- The word of an instruction as a row of OPCODE_MAP lays it out, by the encoder of the row's format (R69, R75). -/
def Instr.wordOf (i : Instr) (row : OpcodeRow) (L : FieldLayout := {}) : Word :=
  let placed := i.operands.placed row
  let op := row.number.toNat
  match row.format with
  | .r => encodeR op (inField placed .rd) (inField placed .rs1) (inField placed .rs2) L
  | .i => encodeI op (inField placed .rd) (i.operands.imm.getD 0) L
  | .j => encodeJ op (i.operands.imm.getD 0) L

/-- The register fields a format offers (R61 to R63). -/
def Format.registers (format : Format) : List RegField :=
  match format with
  | .r => [.rd, .rs1, .rs2]
  | .i => [.rd]
  | .j => []

/-- Does a format offer a field wide enough for an immediate, if there is one? -/
def Format.holds (format : Format) (imm : Option Int) : Bool :=
  match imm, format with
  | none, _ => true
  | some _, .r => false
  | some v, .i => imm16InRange v
  | some _, .j => true

/-- Can a row carry an instruction: each register in a field of its own that the format offers, and the immediate of a
well-formed instruction uncut (one that is not well-formed is cut, R75)? -/
def OpcodeRow.carries (row : OpcodeRow) (i : Instr) : Bool :=
  decide ((i.operands.placed row).map (·.1)).Nodup
    && (i.operands.placed row).all (fun e => row.format.registers.contains e.1)
    && (row.format.holds i.operands.imm || !i.wellFormed)

/-- The word of an instruction under an opcode map, if the map has a row for its mnemonic that can carry it. -/
def encodeWith (map : OpcodeMap) (i : Instr) (L : FieldLayout := {}) : Option Word :=
  match map.rowFor i.mnemonic with
  | some row => if row.carries i then some (i.wordOf row L) else none
  | none => none

/-- The row of a mnemonic (R69's default map lists all 33; one that a map lacks stands with the number 0, and
`encodeWith` answers none). -/
def Mnemonic.row (m : Mnemonic) (P : Params := Params.default) : OpcodeRow :=
  (P.opcodeMap.rowFor m).getD { number := 0x00#8, mnemonic := m }

/-- The opcode number of a mnemonic. -/
def Mnemonic.opcode (m : Mnemonic) (P : Params := Params.default) : BitVec 8 := (m.row P).number

/-- The word of an instruction under the parameters' map and layout. -/
def encodeWord (i : Instr) (P : Params := Params.default) : Word :=
  i.wordOf (i.mnemonic.row P) P.fieldLayout

/-- The bytes of an instruction, in address order (R49, R59). -/
def encode (i : Instr) (P : Params := Params.default) : List Byte :=
  bytesOfNat P.insnBytes (encodeWord i P).toNat P.byteOrder

/-- The word that a table row's bits number: bit 0 is the least significant bit of the word; bits
above `nbits` are 0. -/
def tableWord (nbits w : Nat) : Word := BitVec.ofNat 32 (w % 2 ^ nbits)

/-- The instruction the decoder reads from the word with the bits `w`, laid out in memory order. -/
def decodeTableWord (nbits w : Nat) : Option Instr :=
  match decode (bytesOfNat Config.insnBytes (tableWord nbits w).toNat) with
  | .ok (i, _) => some i
  | .error _ => none

end Sys2Proof
end

