-- ==== Sys2Proof/Machine/State.lean ====
section
/-! DEFINITION. The state of one VM instance (10_state.md R11), its reset value (R37), why a step stops
(60_exceptions.md R140) and what it reports (R136). Memory is the sparse canonical list of Host.Cell. -/

namespace Sys2Proof.Machine

/-- The byte address space (R30): the listed bytes, addresses strictly rising, none equal to what an
unlisted address reads as (`Config.unlistedByte`). -/
abbrev Memory := List Host.Cell

/-- The canonical form of a memory: strictly rising addresses, no entry equal to the unlisted byte. -/
abbrev Memory.wf (m : Memory) : Prop :=
  m.Pairwise (fun x y => x.1 < y.1) ∧ ∀ c ∈ m, c.2 ≠ Config.unlistedByte

/-- Every listed address is one of the address space (R39). -/
abbrev Memory.inBounds (m : Memory) (P : Params := Params.default) : Prop := ∀ c ∈ m, c.1 < P.memSize

/-- The page-protection table (R31): one entry per page, from page 0 on. -/
abbrev PageTable := List Prot

/-- The heap allocator's three values (R33). -/
structure Heap where
  base : Word
  size : Word
  used : Nat
deriving DecidableEq, Repr

/-- The debugger's state (R35). -/
structure Debugger where
  enabled : Bool
  singleStep : Bool
  breakpoints : List Word
  instructions : Count
  cycles : Count
deriving DecidableEq, Repr

/-- One VM instance (R11). The last four fields are the model's own: three stand for the host's streams (R153;
notes/assumptions 3, 4, 5), one serves a parameter that is off by default (notes/assumptions 2). -/
structure State where
  /-- r0..r15 (R12). -/
  regs : Vector Word 16
  /-- The program counter (R16). -/
  pc : Word
  /-- The stack pointer (R20). -/
  sp : Word
  /-- The frame pointer (R21). -/
  fp : Word
  /-- The condition flags (R23). -/
  flags : Flags
  /-- The halted flag (R27). -/
  halted : Bool
  /-- The process exit code (R28). -/
  exitCode : Word
  /-- The running flag (R29). -/
  running : Bool
  /-- The address-space byte buffer (R30). -/
  mem : Memory
  /-- The page-protection table (R31). -/
  prot : PageTable
  /-- The heap-allocator state (R33). -/
  heap : Heap
  /-- The timer tick counter (R34). -/
  tick : Word
  /-- The debugger state (R35). -/
  dbg : Debugger
  /-- MODEL'S OWN: the output events so far, one per PRINT that emitted bytes, oldest first (R153). -/
  output : List (List Byte)
  /-- MODEL'S OWN: the host's answers to the coming READs, where it has lined them up (R126, R153). -/
  inputs : List (List Byte)
  /-- MODEL'S OWN: how many READs the free value `Config.hostReply` has answered (D33). -/
  draws : Nat
  /-- MODEL'S OWN: under BP_SKIP_ONCE (D29), has the step paused at the breakpoint at pc already? Neither read nor
  written where that parameter is off, as it is by default. -/
  bpPassed : Bool
deriving DecidableEq, Repr

/-- The default initial layout (R32): the regions' pages in order. -/
def PageTable.default (P : Params := Params.default) : PageTable :=
  P.layout.flatMap (fun region => List.replicate region.1 region.2)

/-- MEM_RESET (R30, D10): the memory of a new instance. -/
def resetMemory (P : Params) : Memory :=
  match P.memReset with
  | .fill b => if b = Config.unlistedByte then [] else (List.range P.memSize).map (fun a => (a, b))
  | .keep => []

/-- FLAGS_RESET (R26, D9): the flags of a new instance. -/
def resetFlags (P : Params) : Flags :=
  match P.flagsReset with
  | .value f => f
  | .keep => { z := false, n := false, c := false, v := false }

/-- The value of every piece of state after reset (R37, R15, R19, R22, R26 to R29, R32 to R36) under the parameters. The
model's own fields are empty (notes/assumptions 4). -/
def State.resetWith (P : Params) : State where
  regs := Vector.replicate 16 0#32
  pc := 0#32
  sp := wrapTo P.xlen P.spReset
  fp := wrapTo P.xlen P.spReset
  flags := resetFlags P
  halted := false
  exitCode := 0#32
  running := false
  mem := resetMemory P
  prot := PageTable.default P
  heap := { base := P.heapBase, size := P.heapSize, used := 0 }
  tick := 0#32
  dbg :=
    { enabled := false, singleStep := false, breakpoints := [], instructions := 0#64, cycles := 0#64 }
  output := []
  inputs := []
  draws := 0
  bpPassed := false

/-- The state after reset at the spec's default parameters. -/
def State.reset : State := State.resetWith Params.default

/-- The synchronous faults (R140), each with the info it records. They end the step with the status ERROR
and change nothing (R141). Stopping is what the spec says the machine does here, so each is faithful (safe). -/
inductive Fault
  /-- Raised by every step whose 4 bytes at pc are not all on present, readable, executable pages of the
  address space (R44); records pc. Safe: the spec's own fault. -/
  | fetchFault (pc : Word)
  /-- Raised by every step whose word has an opcode that OPCODE_MAP does not list (R71); records pc.
  Safe: the spec's own fault. -/
  | invalidOpcode (pc : Word)
  /-- Raised by LOAD, LOADB (records the effective address) and RET (records sp) when the bytes are not
  readable (R97, R118). Safe: the spec's own fault. -/
  | loadFault (addr : Word)
  /-- Raised by STORE, STOREB (records the effective address) and CALL (records sp - 4) when the bytes
  are not writable (R97, R117). Safe: the spec's own fault. -/
  | storeFault (addr : Word)
  /-- Raised by DIV and MOD when the divisor is 0 (R86, R87); records pc. Safe: the spec's own fault. -/
  | divZero (pc : Word)
deriving DecidableEq, Repr

/-- Why the model would have no meaning for an instruction. -/
inductive Refusal
  /-- Raised only by an arm of exec that has no meaning yet. No arm of this model raises it. Safe: the
  model stops where the machine goes on. -/
  | notModelled (mnemonic : String)
deriving DecidableEq, Repr

/-- What a step returns (R136): CONTINUE, HALTED, PAUSED or ERROR(cause, info). `unmodelled` is the model's
own, for an instruction exec refuses; no step of this model returns it. -/
inductive Status
  | cont
  | halted
  | paused
  | error (f : Fault)
  | unmodelled (r : Refusal)
deriving DecidableEq, Repr

end Sys2Proof.Machine
end

