-- ==== Sys2Proof/Machine/Ops.lean ====
section
/-! DEFINITION. The shared operations: memory, the MMU's check, the state's updates, raising a fault. -/

namespace Sys2Proof.Machine

/-! ### Memory: one byte, runs of bytes, little-endian values (20_memory.md R47 to R51) -/

/-- The byte at an address. -/
def Memory.read (m : Memory) (a : Nat) : Byte :=
  match m with
  | [] => Config.unlistedByte
  | c :: rest => if c.1 = a then c.2 else Memory.read rest a

/-- Puts a cell before the first one with a greater address. -/
def Memory.insert (c : Host.Cell) : Memory → Memory
  | [] => [c]
  | d :: rest => if c.1 < d.1 then c :: d :: rest else d :: Memory.insert c rest

/-- Writes one byte and keeps the canonical form: the address's old entry goes, and a new one is put in
its place unless the byte is what an unlisted address reads as. -/
def Memory.write (m : Memory) (a : Nat) (b : Byte) : Memory :=
  let others := m.filter (fun c => c.1 != a)
  if b = Config.unlistedByte then others else Memory.insert (a, b) others

/-- The n bytes from an address on, in address order. -/
def Memory.readBytes (m : Memory) (a : Nat) : Nat → List Byte
  | 0 => []
  | n + 1 => m.read a :: Memory.readBytes m (a + 1) n

/-- Writes bytes from an address on, in address order. -/
def Memory.writeBytes (m : Memory) (a : Nat) : List Byte → Memory
  | [] => m
  | b :: bs => Memory.writeBytes (m.write a b) (a + 1) bs

/-- `MemRead(addr, n)` of R47, as a number. -/
def Memory.readNat (m : Memory) (a n : Nat) (o : ByteOrder := Config.byteOrder) : Nat :=
  bytesToNat (o.arrange (m.readBytes a n))

/-- `MemWrite(addr, n, v)` of R48. -/
def Memory.writeNat (m : Memory) (a n v : Nat) (o : ByteOrder := Config.byteOrder) : Memory :=
  m.writeBytes a (bytesOfNat n v o)

/-! ### The MMU (20_memory.md R40 to R46) -/

/-- The entry of a page. A page the table does not list has no permission and is not present. -/
def PageTable.entry (t : PageTable) (p : Nat) : Prot := t[p]?.getD 0#4

/-- Overwrites the entry of a page (R160). -/
def PageTable.put (t : PageTable) (p : Nat) (e : Prot) : PageTable :=
  (t ++ List.replicate (p + 1 - t.length) 0#4).set p e

/-- R41's test of one page: present, and every required permission. -/
def PageTable.allows (t : PageTable) (perm : Prot) (p : Nat) (P : Params := Params.default) : Bool :=
  (t.entry p &&& P.protP) != 0#4 && (t.entry p &&& perm) == perm

/-- The pages of the inclusive byte range `first..last` (R41). -/
def pagesOf (first last : Nat) (P : Params := Params.default) : List Nat :=
  List.range' (first / P.pageSize) (last / P.pageSize - first / P.pageSize + 1)

/-- ZERO_LEN_POLICY (D24). -/
def zeroLenPasses (z : ZeroLenPolicy) : Bool :=
  match z with
  | .succeed => true
  | .fail => false

/-- R41: `check_access(addr, size, perm)`. Size 0 passes (D24); the end of the range is exact, without
wrap, and must lie in the address space (D23). -/
def checkAccess (t : PageTable) (addr : Word) (size : Nat) (perm : Prot) (P : Params := Params.default) : Bool :=
  if size = 0 then zeroLenPasses P.zeroLenPolicy
  else if addr.toNat + size - 1 ≥ P.memSize then false
  else (pagesOf addr.toNat (addr.toNat + size - 1) P).all (fun p => t.allows perm p P)

/-- R43: fetch requires R and X. -/
def permFetch (P : Params := Params.default) : Prot := P.protR ||| P.protX

/-- R43: loads, RET, PRINT and the host's memory read require R. -/
def permRead (P : Params := Params.default) : Prot := P.protR

/-- R43: stores, CALL, READ and the host's memory write require W. -/
def permWrite (P : Params := Params.default) : Prot := P.protW

/-- R43: the host's program load requires nothing beyond the present bit. -/
def permPresent : Prot := 0#4

/-! ### Faults: the machine's only exceptions -/

/-- R141, R145: raising a fault ends the step with ERROR(cause, info); nothing is saved, no mode changes,
there is no handler address and no return (R146), and no state changes, so the outcome carries none. -/
def raise (f : Fault) : Host.Outcome State Fault Refusal := .fault f

/-- R141: the checks of an instruction come before its writes. `guarded ok f t` is the state `t` if the
check holds, and the fault otherwise. -/
def guarded (ok : Bool) (f : Fault) (t : State) : Host.Outcome State Fault Refusal :=
  if ok then .next t else raise f

/-! ### Registers and the other state -/

/-- `x[i]` of R8. -/
def State.reg (s : State) (r : RegIdx) : Word := s.regs[r]

/-- `x[i] <- v` of R8; every register stores what is written (R12). -/
def State.setReg (s : State) (r : RegIdx) (v : Word) : State := { s with regs := s.regs.set r v }

/-- `pc <- v`. -/
def State.setPc (s : State) (v : Word) : State := { s with pc := v }

/-- `sp <- v`. -/
def State.setSp (s : State) (v : Word) : State := { s with sp := v }

/-- Writes the flags. -/
def State.setFlags (s : State) (f : Flags) : State := { s with flags := f }

/-- Writes the byte buffer. -/
def State.setMem (s : State) (m : Memory) : State := { s with mem := m }

/-- `halt()` of R8. -/
def State.halt (s : State) : State := { s with halted := true }

/-- Writes the exit code (R28). -/
def State.setExitCode (s : State) (v : Word) : State := { s with exitCode := v }

/-- Writes the running flag (R29). -/
def State.setRunning (s : State) (b : Bool) : State := { s with running := b }

/-- Writes the page-protection table (R31). -/
def State.setProt (s : State) (t : PageTable) : State := { s with prot := t }

/-- `heap.used <- n` (R33). -/
def State.setHeapUsed (s : State) (n : Nat) : State := { s with heap := { s.heap with used := n } }

/-- `tick <- v` (R34). -/
def State.setTick (s : State) (v : Word) : State := { s with tick := v }

/-- Writes the debugger's state (R35). -/
def State.setDbg (s : State) (d : Debugger) : State := { s with dbg := d }

/-- `tick <- (tick + n) mod 2^32` (R128, R162; TICK_WIDTH). -/
def State.addTick (s : State) (n : Word) (P : Params := Params.default) : State :=
  s.setTick (wrapTo P.tickWidth (s.tick + n))

/-- `cycles <- (cycles + n) mod 2^64` (COUNTER_WIDTH). -/
def State.addCycles (s : State) (n : Count) (P : Params := Params.default) : State :=
  { s with dbg := { s.dbg with cycles := wrapTo P.counterWidth (s.dbg.cycles + n) } }

/-- Records one output event (R153). -/
def State.emit (s : State) (bs : List Byte) : State := { s with output := s.output ++ [bs] }

/-- Consumes the host's answer to one READ (R153): the first lined-up one, else the next draw. -/
def State.consumeReply (s : State) : State :=
  match s.inputs with
  | _ :: rest => { s with inputs := rest }
  | [] => { s with draws := s.draws + 1 }

/-- The host's answer to the READ at hand: any bytes at all (IB3, D33). THE MODEL'S CHOICE: an answer that is not lined up
depends only on how many this instance has drawn, so it is the same for the n-th such READ of every instance, where the
spec's draws are independent (R11, R153; notes/assumptions 3, 9: DESIGN CHOICE, unsafe). -/
def State.hostReply (s : State) (P : Params := Params.default) : List Byte :=
  match s.inputs with
  | reply :: _ => reply
  | [] => P.readInput s.draws

/-- R17: an instruction that did not itself modify the PC is followed by the next word (INSN_BYTES). -/
def State.advance (s : State) (P : Params := Params.default) : State :=
  { s with pc := s.pc + BitVec.ofNat 32 P.insnBytes }

/-- R138: a completed instruction adds 1 to both counters. -/
def State.retire (s : State) (P : Params := Params.default) : State :=
  { s with dbg := { s.dbg with
      instructions := wrapTo P.counterWidth (s.dbg.instructions + 1#64)
      cycles := wrapTo P.counterWidth (s.dbg.cycles + 1#64) } }

/-- The end of an instruction that does not itself modify the PC (R17, R79). -/
def complete (t : State) (P : Params := Params.default) : Host.Outcome State Fault Refusal := .next (t.advance P)

/-- The end of an instruction that writes a result and the flags, all computed from the state before it
(R78). -/
def completeResult (s : State) (rd : RegIdx) (r : Word) (f : Flags) (P : Params := Params.default) :
    Host.Outcome State Fault Refusal :=
  complete ((s.setReg rd r).setFlags f) P

/-! ### Loads, stores and the fetch -/

/-- `MemRead(addr, 4)`. -/
def State.loadWord (s : State) (addr : Word) (P : Params := Params.default) : Word :=
  BitVec.ofNat 32 (s.mem.readNat addr.toNat 4 P.byteOrder)

/-- `MemRead(addr, 1)`. -/
def State.loadByte (s : State) (addr : Word) (P : Params := Params.default) : Byte :=
  BitVec.ofNat 8 (s.mem.readNat addr.toNat 1 P.byteOrder)

/-- `MemWrite(addr, 4, v)`. -/
def State.storeWord (s : State) (addr v : Word) (P : Params := Params.default) : State :=
  s.setMem (s.mem.writeNat addr.toNat 4 v.toNat P.byteOrder)

/-- `MemWrite(addr, 1, v & 0xFF)`: one byte (R101). -/
def State.storeByte (s : State) (addr v : Word) (P : Params := Params.default) : State :=
  s.setMem (s.mem.writeNat addr.toNat 1 (v &&& 0xFF#32).toNat P.byteOrder)

/-- May the n bytes at an address be read (R43)? -/
def State.canRead (s : State) (addr : Word) (n : Nat) (P : Params := Params.default) : Bool :=
  checkAccess s.prot addr n (permRead P) P

/-- May the n bytes at an address be written (R43)? -/
def State.canWrite (s : State) (addr : Word) (n : Nat) (P : Params := Params.default) : Bool :=
  checkAccess s.prot addr n (permWrite P) P

/-- May the word at pc be fetched (R44)? -/
def State.canFetch (s : State) (P : Params := Params.default) : Bool :=
  checkAccess s.prot s.pc P.insnBytes (permFetch P) P

/-- The bytes of the instruction at pc, in address order (R44, R59). -/
def State.fetchBytes (s : State) (P : Params := Params.default) : List Byte :=
  s.mem.readBytes s.pc.toNat P.insnBytes

end Sys2Proof.Machine
end

