-- ==== Sys2Proof/Machine/Operands.lean ====
section
/-! DEFINITION. The operand forms: the register-plus-register address (42_memory_ops.md R96), the I-type and
J-type immediates (30_encoding.md R65, R66), the shift amount (41_logical_shift.md R89), the stack slots of
CALL and RET (44_control_flow.md R117, R118), the 0/1 result of the set instructions (43_move_compare.md R106). -/

namespace Sys2Proof.Machine

/-- `s32(v)` of R8: the two's-complement reading of a register value (XLEN). -/
def signedOf (xlen : Nat) (v : Word) : Int := if 32 ≤ xlen then v.toInt else (v.toNat : Int).bmod (2 ^ xlen)

/-- `r[31]` of a register value (XLEN). -/
def signBit (xlen : Nat) (v : Word) : Bool := if 32 ≤ xlen then v.msb else v.getLsbD (xlen - 1)

/-- R96: `ea <- (x[rs1] + x[rs2]) mod 2^32` (XLEN). -/
def State.ea (s : State) (rs1 rs2 : RegIdx) (P : Params := Params.default) : Word :=
  wrapTo P.xlen (s.reg rs1 + s.reg rs2)

/-- R65, R66: the decoder has read the immediate as the signed number its field holds, so it is `sext` of that field: a
value of LOADI, an absolute byte address of a jump. -/
def immediate (imm : Int) : Word := BitVec.ofInt 32 imm

/-- R89: the shift amount is the low 5 bits of `x[rs2]`. -/
def shiftAmount (v : Word) : Nat := (v &&& 31#32).toNat

/-- R117: the return address, `pc + 4` (INSN_BYTES, XLEN). -/
def State.returnAddress (s : State) (P : Params := Params.default) : Word :=
  wrapTo P.xlen (s.pc + BitVec.ofNat 32 P.insnBytes)

/-- R117: where CALL pushes, `sp - 4` (XLEN). -/
def State.pushAddress (s : State) (P : Params := Params.default) : Word := wrapTo P.xlen (s.sp - 4#32)

/-- R118: where sp stands after a pop, `sp + 4`. -/
def State.poppedSp (s : State) : Word := s.sp + 4#32

/-- STORE_DATA_FIELD (R99, R101, D22): the register a store stores, of the operands that the store's row of OPCODE_MAP
has read from the word. THE MODEL'S CHOICE: OPCODE_MAP (D3) and STORE_DATA_FIELD both name the data field, and where the
row is not the default one the row comes first, so that `.rd`, `.rs1`, `.rs2` are its `dest`, `first`, `second` operand,
whatever field each came from (notes/assumptions 19: DESIGN CHOICE, unsafe). -/
def dataRegister (field : StoreDataField) (rd rs1 rs2 : RegIdx) : RegIdx :=
  match field with
  | .rd => rd
  | .rs1 => rs1
  | .rs2 => rs2

/-- DIV_SIGNED (R86, D16): the quotient. The signed one rounds toward zero (the model's choice; notes/assumptions 2). -/
def quotient (signed : Bool) (a b : Word) (xlen : Nat := Config.xlen) : Word :=
  if signed then BitVec.ofInt 32 ((signedOf xlen a).tdiv (signedOf xlen b)) else a / b

/-- DIV_SIGNED (R87, D16): the remainder. The signed one has the dividend's sign (the model's choice;
notes/assumptions 2). -/
def remainder (signed : Bool) (a b : Word) (xlen : Nat := Config.xlen) : Word :=
  if signed then BitVec.ofInt 32 ((signedOf xlen a).tmod (signedOf xlen b)) else a % b

/-- R106: the 32-bit value 1 when the condition holds and 0 otherwise. -/
def boolWord (b : Bool) : Word := if b then 1#32 else 0#32

/-- SHR_KIND (R95, D18). -/
def shiftRight (kind : ShrKind) (a : Word) (amount : Nat) (xlen : Nat := Config.xlen) : Word :=
  match kind with
  | .logical => a >>> amount
  | .arithmetic => BitVec.ofInt 32 (signedOf xlen a >>> amount)

/-- LOADB_EXT (R100, D22). -/
def extendByte (ext : LoadbExt) (b : Byte) : Word :=
  match ext with
  | .zero => b.setWidth 32
  | .sign => b.signExtend 32

end Sys2Proof.Machine
end

