-- ==== Sys2Proof/Machine/Flags.lean ====
section
/-! DEFINITION. The flag unit: what each group of instructions writes to Z, N, C, V (10_state.md R25,
40_arithmetic.md R80 to R87, 41_logical_shift.md R88, 43_move_compare.md R104, R105). -/

namespace Sys2Proof.Machine

/-- R81: is an exact result outside the signed range of a register (XLEN)? -/
def signedOverflow (exact : Int) (xlen : Nat := Config.xlen) : Bool :=
  decide (exact < -(2 ^ (xlen - 1))) || decide (2 ^ (xlen - 1) - 1 < exact)

/-- R80: is the result, as a register holds it, 0 (XLEN)? -/
def isZero (r : Word) (xlen : Nat := Config.xlen) : Bool := wrapTo xlen r == 0#32

/-- R80: Z and N from the result, C and V kept. -/
def flagsZN (old : Flags) (r : Word) (xlen : Nat := Config.xlen) : Flags :=
  { old with z := isZero r xlen, n := signBit xlen r }

/-- R82: the flags of `a + b`. -/
def flagsAdd (a b : Word) (xlen : Nat := Config.xlen) : Flags where
  z := isZero (a + b) xlen
  n := signBit xlen (a + b)
  c := decide (wrapTo xlen (a + b) < a)
  v := signedOverflow (signedOf xlen a + signedOf xlen b) xlen

/-- R83, R104: the flags of `a - b`; C is a borrow. -/
def flagsSub (a b : Word) (xlen : Nat := Config.xlen) : Flags where
  z := isZero (a - b) xlen
  n := signBit xlen (a - b)
  c := decide (a < b)
  v := signedOverflow (signedOf xlen a - signedOf xlen b) xlen

/-- R84: does the exact unsigned product need more bits than a register has (XLEN)? -/
def mulCarry (a b : Word) (xlen : Nat := Config.xlen) : Bool := decide (2 ^ xlen ≤ a.toNat * b.toNat)

/-- MUL_V_RULE (R84, D14): OVERFLOW after MUL. -/
def mulV (rule : MulVRule) (old : Flags) (a b : Word) (xlen : Nat := Config.xlen) : Bool :=
  match rule with
  | .signedProduct => signedOverflow (signedOf xlen a * signedOf xlen b) xlen
  | .zero => false
  | .unchanged => old.v
  | .asCarry => mulCarry a b xlen

/-- R84: the flags of `a * b`. -/
def flagsMul (rule : MulVRule) (old : Flags) (a b : Word) (xlen : Nat := Config.xlen) : Flags where
  z := isZero (a * b) xlen
  n := signBit xlen (a * b)
  c := mulCarry a b xlen
  v := mulV rule old a b xlen

/-- Z and N from the result; C and V cleared (an alternative of several parameters). -/
def flagsZNClearCV (r : Word) (xlen : Nat := Config.xlen) : Flags where
  z := isZero r xlen
  n := signBit xlen r
  c := false
  v := false

/-- R85, NEG_CV_RULE (D15): by default as SUB with operand1 = 0. -/
def flagsNeg (rule : NegCVRule) (old : Flags) (a : Word) (xlen : Nat := Config.xlen) : Flags :=
  match rule with
  | .asSub => flagsSub 0#32 a xlen
  | .unchanged => flagsZN old (0#32 - a) xlen
  | .clear => flagsZNClearCV (0#32 - a) xlen

/-- R86, R87, DIV_FLAGS (D16): the flags of DIV and MOD. -/
def flagsDiv (rule : DivFlags) (old : Flags) (r : Word) (xlen : Nat := Config.xlen) : Flags :=
  match rule with
  | .zn => flagsZN old r xlen
  | .znClearCV => flagsZNClearCV r xlen
  | .unchanged => old

/-- R105, TEST_RULE (D19): the flags of TEST, from the AND of its operands. -/
def flagsTest (rule : TestRule) (old : Flags) (r : Word) (xlen : Nat := Config.xlen) : Flags :=
  match rule with
  | .flagsOnlyAnd => flagsZN old r xlen
  | .flagsOnlyAndClearCV => flagsZNClearCV r xlen

/-- R88, LOGIC_CV_POLICY (D17): Z and N from the result; C and V by the policy. -/
def flagsLogic (policy : LogicCVPolicy) (old : Flags) (r : Word) (xlen : Nat := Config.xlen) : Flags :=
  match policy with
  | .preserve => flagsZN old r xlen
  | .clear => flagsZNClearCV r xlen

/-- The flags bitmask in the positions D8 names for notation (R23): Z bit 0, N bit 1, C bit 2, V bit 3. -/
def Flags.bitmask (f : Flags) : BitVec 4 :=
  BitVec.ofBool f.v ++ BitVec.ofBool f.c ++ BitVec.ofBool f.n ++ BitVec.ofBool f.z

end Sys2Proof.Machine
end

