-- ==== Sys2Proof/Machine/Arithmetic.lean ====
section
/-! DEFINITION. ADD, SUB, MUL, NEG, DIV, MOD (40_arithmetic.md). -/

namespace Sys2Proof.Machine

/-- R82. -/
def execAdd (rd rs1 rs2 : RegIdx) (s : State) (P : Params := Params.default) :
    Host.Outcome State Fault Refusal :=
  completeResult s rd (s.reg rs1 + s.reg rs2) (flagsAdd (s.reg rs1) (s.reg rs2) P.xlen) P

/-- R83. -/
def execSub (rd rs1 rs2 : RegIdx) (s : State) (P : Params := Params.default) :
    Host.Outcome State Fault Refusal :=
  completeResult s rd (s.reg rs1 - s.reg rs2) (flagsSub (s.reg rs1) (s.reg rs2) P.xlen) P

/-- R84: the low 32 bits of the product. -/
def execMul (rd rs1 rs2 : RegIdx) (s : State) (P : Params := Params.default) :
    Host.Outcome State Fault Refusal :=
  completeResult s rd (s.reg rs1 * s.reg rs2)
    (flagsMul P.mulVRule s.flags (s.reg rs1) (s.reg rs2) P.xlen) P

/-- R85. -/
def execNeg (rd rs1 : RegIdx) (s : State) (P : Params := Params.default) :
    Host.Outcome State Fault Refusal :=
  completeResult s rd (0#32 - s.reg rs1) (flagsNeg P.negCVRule s.flags (s.reg rs1) P.xlen) P

/-- What DIV and MOD share (R86, R87): a zero divisor faults before any write; else the result and its flags. -/
def divideOr (P : Params) (rd : RegIdx) (divisor result : Word) (s : State) :
    Host.Outcome State Fault Refusal :=
  guarded (divisor != 0#32) (.divZero s.pc)
    (((s.setReg rd result).setFlags (flagsDiv P.divFlags s.flags result P.xlen)).advance P)

/-- R86: the quotient, unsigned by default. -/
def execDiv (rd rs1 rs2 : RegIdx) (s : State) (P : Params := Params.default) :
    Host.Outcome State Fault Refusal :=
  divideOr P rd (s.reg rs2) (quotient P.divSigned (s.reg rs1) (s.reg rs2) P.xlen) s

/-- R87: the remainder, unsigned by default. -/
def execMod (rd rs1 rs2 : RegIdx) (s : State) (P : Params := Params.default) :
    Host.Outcome State Fault Refusal :=
  divideOr P rd (s.reg rs2) (remainder P.divSigned (s.reg rs1) (s.reg rs2) P.xlen) s

end Sys2Proof.Machine
end

