-- ==== Sys2Proof/Machine/ControlFlow.lean ====
section
/-! DEFINITION. JMP, JZ, JNZ, JC, JNC, CALL, RET (44_control_flow.md): the program-counter unit. A bad target
faults at the next fetch, not here (R111). -/

namespace Sys2Proof.Machine

/-- R111: a taken jump sets the PC and is not followed by the increment; one that is not taken is (C8). -/
def jumpIf (P : Params) (taken : Bool) (target : Int) (s : State) : Host.Outcome State Fault Refusal :=
  .next (if taken then s.setPc (immediate target) else s.advance P)

/-- R112. -/
def execJmp (target : Int) (s : State) (P : Params := Params.default) :
    Host.Outcome State Fault Refusal := jumpIf P true target s

/-- R113. -/
def execJz (target : Int) (s : State) (P : Params := Params.default) :
    Host.Outcome State Fault Refusal := jumpIf P s.flags.z target s

/-- R114. -/
def execJnz (target : Int) (s : State) (P : Params := Params.default) :
    Host.Outcome State Fault Refusal := jumpIf P (!s.flags.z) target s

/-- R115. -/
def execJc (target : Int) (s : State) (P : Params := Params.default) :
    Host.Outcome State Fault Refusal := jumpIf P s.flags.c target s

/-- R116. -/
def execJnc (target : Int) (s : State) (P : Params := Params.default) :
    Host.Outcome State Fault Refusal := jumpIf P (!s.flags.c) target s

/-- R117: pushes the return address at sp - 4, then jumps; a fault leaves sp, memory and pc (D25). -/
def execCall (target : Int) (s : State) (P : Params := Params.default) :
    Host.Outcome State Fault Refusal :=
  guarded (s.canWrite (s.pushAddress P) 4 P) (.storeFault (s.pushAddress P))
    (((s.storeWord (s.pushAddress P) (s.returnAddress P) P).setSp (s.pushAddress P)).setPc (immediate target))

/-- R118: pops the word at sp into pc; a fault leaves sp and pc (D25). -/
def execRet (s : State) (P : Params := Params.default) : Host.Outcome State Fault Refusal :=
  guarded (s.canRead s.sp 4 P) (.loadFault s.sp)
    ((s.setPc (s.loadWord s.sp P)).setSp s.poppedSp)

end Sys2Proof.Machine
end

