-- ==== Sys2Proof/Machine/Logical.lean ====
section
/-! DEFINITION. AND, OR, XOR, NOT, SHL, SHR (41_logical_shift.md). -/

namespace Sys2Proof.Machine

/-- R88: what the logical and shift instructions share. -/
def completeLogic (P : Params) (s : State) (rd : RegIdx) (r : Word) : Host.Outcome State Fault Refusal :=
  completeResult s rd r (flagsLogic P.logicCVPolicy s.flags r P.xlen) P

/-- R90. -/
def execAnd (rd rs1 rs2 : RegIdx) (s : State) (P : Params := Params.default) :
    Host.Outcome State Fault Refusal :=
  completeLogic P s rd (s.reg rs1 &&& s.reg rs2)

/-- R91. -/
def execOr (rd rs1 rs2 : RegIdx) (s : State) (P : Params := Params.default) :
    Host.Outcome State Fault Refusal :=
  completeLogic P s rd (s.reg rs1 ||| s.reg rs2)

/-- R92. -/
def execXor (rd rs1 rs2 : RegIdx) (s : State) (P : Params := Params.default) :
    Host.Outcome State Fault Refusal :=
  completeLogic P s rd (s.reg rs1 ^^^ s.reg rs2)

/-- R93. -/
def execNot (rd rs1 : RegIdx) (s : State) (P : Params := Params.default) :
    Host.Outcome State Fault Refusal :=
  completeLogic P s rd (~~~ s.reg rs1)

/-- R94, R89. -/
def execShl (rd rs1 rs2 : RegIdx) (s : State) (P : Params := Params.default) :
    Host.Outcome State Fault Refusal :=
  completeLogic P s rd (s.reg rs1 <<< shiftAmount (s.reg rs2))

/-- R95, R89. -/
def execShr (rd rs1 rs2 : RegIdx) (s : State) (P : Params := Params.default) :
    Host.Outcome State Fault Refusal :=
  completeLogic P s rd (shiftRight P.shrKind (s.reg rs1) (shiftAmount (s.reg rs2)) P.xlen)

end Sys2Proof.Machine
end

