-- ==== Sys2Proof/Machine/MemoryOps.lean ====
section
/-! DEFINITION. LOAD, STORE, LOADB, STOREB, LOADI (42_memory_ops.md). None writes a flag. -/

namespace Sys2Proof.Machine

/-- R98. -/
def execLoad (rd rs1 rs2 : RegIdx) (s : State) (P : Params := Params.default) :
    Host.Outcome State Fault Refusal :=
  guarded (s.canRead (s.ea rs1 rs2 P) 4 P) (.loadFault (s.ea rs1 rs2 P))
    ((s.setReg rd (s.loadWord (s.ea rs1 rs2 P) P)).advance P)

/-- R99: the data register is rd (STORE_DATA_FIELD, D22). -/
def execStore (rd rs1 rs2 : RegIdx) (s : State) (P : Params := Params.default) :
    Host.Outcome State Fault Refusal :=
  guarded (s.canWrite (s.ea rs1 rs2 P) 4 P) (.storeFault (s.ea rs1 rs2 P))
    ((s.storeWord (s.ea rs1 rs2 P) (s.reg (dataRegister P.storeDataField rd rs1 rs2)) P).advance P)

/-- R100. -/
def execLoadb (rd rs1 rs2 : RegIdx) (s : State) (P : Params := Params.default) :
    Host.Outcome State Fault Refusal :=
  guarded (s.canRead (s.ea rs1 rs2 P) 1 P) (.loadFault (s.ea rs1 rs2 P))
    ((s.setReg rd (extendByte P.loadbExt (s.loadByte (s.ea rs1 rs2 P) P))).advance P)

/-- R101: the data register is rd (STORE_DATA_FIELD, D22). -/
def execStoreb (rd rs1 rs2 : RegIdx) (s : State) (P : Params := Params.default) :
    Host.Outcome State Fault Refusal :=
  guarded (s.canWrite (s.ea rs1 rs2 P) 1 P) (.storeFault (s.ea rs1 rs2 P))
    ((s.storeByte (s.ea rs1 rs2 P) (s.reg (dataRegister P.storeDataField rd rs1 rs2)) P).advance P)

/-- R102: reads no memory. -/
def execLoadi (rd : RegIdx) (imm : Int) (s : State) (P : Params := Params.default) :
    Host.Outcome State Fault Refusal :=
  complete (s.setReg rd (immediate imm)) P

end Sys2Proof.Machine
end

