-- ==== Sys2Proof/Machine/MoveCompare.lean ====
section
/-! DEFINITION. MOVE, CMP, TEST, SLT, SLE, SEQ, SNE (43_move_compare.md). None can fault. -/

namespace Sys2Proof.Machine

/-- R103: writes no flag (D20). -/
def execMove (rd rs1 : RegIdx) (s : State) (P : Params := Params.default) :
    Host.Outcome State Fault Refusal :=
  complete (s.setReg rd (s.reg rs1)) P

/-- R104: the flags SUB would write, and no register. -/
def execCmp (rs1 rs2 : RegIdx) (s : State) (P : Params := Params.default) :
    Host.Outcome State Fault Refusal :=
  complete (s.setFlags (flagsSub (s.reg rs1) (s.reg rs2) P.xlen)) P

/-- R105: the flags-only AND (TEST_RULE, D19); C and V are kept. -/
def execTest (rs1 rs2 : RegIdx) (s : State) (P : Params := Params.default) :
    Host.Outcome State Fault Refusal :=
  complete (s.setFlags (flagsTest P.testRule s.flags (s.reg rs1 &&& s.reg rs2) P.xlen)) P

/-- R106: the set instructions write 1 or 0 and no flag. -/
def completeSet (P : Params) (s : State) (rd : RegIdx) (holds : Bool) : Host.Outcome State Fault Refusal :=
  complete (s.setReg rd (boolWord holds)) P

/-- R107: signed less-than. -/
def execSlt (rd rs1 rs2 : RegIdx) (s : State) (P : Params := Params.default) :
    Host.Outcome State Fault Refusal :=
  completeSet P s rd (decide (signedOf P.xlen (s.reg rs1) < signedOf P.xlen (s.reg rs2)))

/-- R108: signed less-or-equal. -/
def execSle (rd rs1 rs2 : RegIdx) (s : State) (P : Params := Params.default) :
    Host.Outcome State Fault Refusal :=
  completeSet P s rd (decide (signedOf P.xlen (s.reg rs1) ≤ signedOf P.xlen (s.reg rs2)))

/-- R109. -/
def execSeq (rd rs1 rs2 : RegIdx) (s : State) (P : Params := Params.default) :
    Host.Outcome State Fault Refusal :=
  completeSet P s rd (s.reg rs1 == s.reg rs2)

/-- R110. -/
def execSne (rd rs1 rs2 : RegIdx) (s : State) (P : Params := Params.default) :
    Host.Outcome State Fault Refusal :=
  completeSet P s rd (s.reg rs1 != s.reg rs2)

end Sys2Proof.Machine
end

