-- ==== Sys2Proof/Machine/System.lean ====
section
/-! DEFINITION. HALT, SYSCALL, the syscall dispatcher with every service, and the heap allocator
(45_system.md). No service faults: a failure is a result in r0 (R121). -/

namespace Sys2Proof.Machine

/-! ### The heap allocator (R133, R134) -/

/-- R133: `align4(n) = 4 * ceil(n / 4)`. -/
def align4 (n : Nat) : Nat := (n + 3) / 4 * 4

/-- R133: does the request fail? The test uses n, not align4(n) (C4). -/
def Heap.fails (h : Heap) (n : Nat) : Bool := decide (h.used + n > h.size.toNat)

/-- R133: `alloc(n)` on exact integers: the address (0 on failure) and the heap afterwards. -/
def Heap.alloc (h : Heap) (n : Nat) : Nat × Heap :=
  if h.fails n then (0, h)
  else (h.base.toNat + h.used, { h with used := h.used + align4 n })

/-- R134: `free(addr)` reads nothing and changes nothing. -/
def Heap.free (h : Heap) (_addr : Word) : Heap := h

/-! ### The services (R124 to R132) -/

/-- The syscall's result register (R122). -/
def State.setResult (s : State) (v : Word) : State := s.setReg 0 v

/-- SYS_RESULTS (D32): the result where the parameter gives one, else the one at hand. -/
def State.setResultOr (s : State) (given : Option Word) (otherwise : Word) : State :=
  match given with
  | some v => s.setResult v
  | none => s.setResult otherwise

/-- R124: x0 keeps its value (SYS_RESULTS, D32). -/
def sysExit (s : State) (P : Params := Params.default) (A : SyscallArgs := {}) : State :=
  let t := (s.setExitCode (wrapTo P.exitCodeWidth (s.reg A.first))).halt
  match P.sysResults.exit with
  | some v => t.setResult v
  | none => t

/-- ZERO_LEN_POLICY (R125, R126, D24): the result of a PRINT or READ of no bytes. -/
def zeroLenResult (z : ZeroLenPolicy) : Word :=
  match z with
  | .succeed => 0#32
  | .fail => Config.minusOne

/-- R125: nothing is emitted when the check fails; a zero length succeeds with no effect (D24). -/
def sysPrint (s : State) (P : Params := Params.default) (A : SyscallArgs := {}) : State :=
  if s.reg A.second = 0#32 then s.setResult (zeroLenResult P.zeroLenPolicy)
  else if s.canRead (s.reg A.first) (s.reg A.second).toNat P then
    (s.emit (s.mem.readBytes (s.reg A.first).toNat (s.reg A.second).toNat)).setResultOr P.sysResults.print (s.reg A.second)
  else s.setResult Config.minusOne

/-- R126: the bytes the host gives to this READ, at most `len` of them (D33), with room for the terminator where
READ_TERMINATOR asks for one. -/
def State.inputBytes (s : State) (len : Nat) (P : Params := Params.default) : List Byte :=
  match P.readTerminator with
  | none => (s.hostReply P).take len
  | some _ => (s.hostReply P).take (len - 1)

/-- READ_TERMINATOR (R126, D33): what is stored after the host's bytes; nothing, by default. -/
def withTerminator (terminator : Option Byte) (bytes : List Byte) : List Byte :=
  match terminator with
  | none => bytes
  | some b => bytes ++ [b]

/-- R126: no input is consumed when the check fails (D48) or the length is 0 (D24). -/
def sysRead (s : State) (P : Params := Params.default) (A : SyscallArgs := {}) : State :=
  if s.reg A.second = 0#32 then s.setResult (zeroLenResult P.zeroLenPolicy)
  else if s.canWrite (s.reg A.first) (s.reg A.second).toNat P then
    let bytes := s.inputBytes (s.reg A.second).toNat P
    (s.consumeReply.setMem (s.mem.writeBytes (s.reg A.first).toNat (withTerminator P.readTerminator bytes))).setResult
      (BitVec.ofNat 32 bytes.length)
  else s.setResult Config.minusOne

/-- R127. -/
def sysGetTime (s : State) : State := s.setResult s.tick

/-- R128: the usual cycle increment comes on top, with the step (D47). -/
def sysSleep (s : State) (P : Params := Params.default) (A : SyscallArgs := {}) : State :=
  ((s.addTick (s.reg A.first) P).addCycles ((s.reg A.first).setWidth 64) P).setResult P.sysResults.sleep

/-- R129: r0 is 32 bits wide, so it holds the address modulo 2^32 (notes/assumptions 7). -/
def sysAlloc (s : State) (A : SyscallArgs := {}) : State :=
  let r := s.heap.alloc (s.reg A.first).toNat
  (s.setHeapUsed r.2.used).setResult (BitVec.ofNat 32 r.1)

/-- R130. -/
def sysFree (s : State) (P : Params := Params.default) (A : SyscallArgs := {}) : State :=
  (s.setHeapUsed (s.heap.free (s.reg A.first)).used).setResult P.sysResults.free

/-- R131: the file operations are unimplemented and always fail. -/
def sysFileOp (s : State) : State := s.setResult Config.minusOne

/-- R132: an unknown number fails, and the VM keeps running. -/
def sysUnknown (s : State) : State := s.setResult Config.minusOne

/-- The row a map gives a number (R123). -/
def serviceRow (map : SyscallMap) (n : Word) : Option SyscallRow := map.find? (fun row => row.number == n)

/-- The effect of one service, on the arguments in the registers a row of SYSCALL_MAP names (R122, R123, D4). -/
def runService (v : Service) (s : State) (P : Params := Params.default) (A : SyscallArgs := {}) : State :=
  match v with
  | .exit => sysExit s P A
  | .print => sysPrint s P A
  | .read => sysRead s P A
  | .getTime => sysGetTime s
  | .sleep => sysSleep s P A
  | .alloc => sysAlloc s A
  | .free => sysFree s P A
  | .openFile => sysFileOp s
  | .closeFile => sysFileOp s
  | .readFile => sysFileOp s
  | .writeFile => sysFileOp s

/-- R121, R123: the dispatcher, on the number in x0. THE MODEL'S CHOICE (NREGS below 3, or a row of SYSCALL_MAP whose
argument registers are beyond NREGS): SYSCALL has no register field, so it runs, and the number, the arguments and the
result are in State's sixteen registers whether the machine has them or not (notes/assumptions 19: DESIGN CHOICE,
unsafe). -/
def dispatchSyscall (map : SyscallMap) (s : State) (P : Params := Params.default) : State :=
  match serviceRow map (s.reg 0) with
  | some row => runService row.service s P row.args
  | none => sysUnknown s

/-- R121: PC advances by 4 whatever the service. -/
def execSyscall (s : State) (P : Params := Params.default) : Host.Outcome State Fault Refusal :=
  complete (dispatchSyscall P.syscallMap s P) P

/-- R120: HALT advances the PC too (D26). -/
def execHalt (s : State) (P : Params := Params.default) :
    Host.Outcome State Fault Refusal := complete s.halt P

end Sys2Proof.Machine
end

