-- ==== Sys2Proof/Machine/Engine.lean ====
section
/-! DEFINITION. The execution control: the step with the debugger overlay (60_exceptions.md R137, R143, R148,
R149), run (R139), the codes (R136, R140). -/

namespace Sys2Proof.Machine

/-- The dispatch under any parameters. `exec` is this at the spec's defaults (`execWith_default`). -/
def execWith (i : Instr) (s : State) (P : Params) : Host.Outcome State Fault Refusal :=
  match i with
  | .add rd rs1 rs2 => execAdd rd rs1 rs2 s P
  | .sub rd rs1 rs2 => execSub rd rs1 rs2 s P
  | .mul rd rs1 rs2 => execMul rd rs1 rs2 s P
  | .neg rd rs1 => execNeg rd rs1 s P
  | .div rd rs1 rs2 => execDiv rd rs1 rs2 s P
  | .mod rd rs1 rs2 => execMod rd rs1 rs2 s P
  | .and rd rs1 rs2 => execAnd rd rs1 rs2 s P
  | .or rd rs1 rs2 => execOr rd rs1 rs2 s P
  | .xor rd rs1 rs2 => execXor rd rs1 rs2 s P
  | .not rd rs1 => execNot rd rs1 s P
  | .shl rd rs1 rs2 => execShl rd rs1 rs2 s P
  | .shr rd rs1 rs2 => execShr rd rs1 rs2 s P
  | .load rd rs1 rs2 => execLoad rd rs1 rs2 s P
  | .store rd rs1 rs2 => execStore rd rs1 rs2 s P
  | .loadb rd rs1 rs2 => execLoadb rd rs1 rs2 s P
  | .storeb rd rs1 rs2 => execStoreb rd rs1 rs2 s P
  | .loadi rd imm => execLoadi rd imm s P
  | .move rd rs1 => execMove rd rs1 s P
  | .cmp rs1 rs2 => execCmp rs1 rs2 s P
  | .test rs1 rs2 => execTest rs1 rs2 s P
  | .slt rd rs1 rs2 => execSlt rd rs1 rs2 s P
  | .sle rd rs1 rs2 => execSle rd rs1 rs2 s P
  | .seq rd rs1 rs2 => execSeq rd rs1 rs2 s P
  | .sne rd rs1 rs2 => execSne rd rs1 rs2 s P
  | .jmp target => execJmp target s P
  | .jz target => execJz target s P
  | .jnz target => execJnz target s P
  | .jc target => execJc target s P
  | .jnc target => execJnc target s P
  | .call target => execCall target s P
  | .ret => execRet s P
  | .syscall => execSyscall s P
  | .halt => execHalt s P

/-- R140: the code of a fault's cause (FAULT_CODES). -/
def Fault.code (f : Fault) (P : Params := Params.default) : Nat :=
  match f with
  | .fetchFault _ => P.faultCodes.fetchFault
  | .invalidOpcode _ => P.faultCodes.invalidOpcode
  | .loadFault _ => P.faultCodes.loadFault
  | .storeFault _ => P.faultCodes.storeFault
  | .divZero _ => P.faultCodes.divZero

/-- R140: the info a fault records. -/
def Fault.info (f : Fault) : Word :=
  match f with
  | .fetchFault pc => pc
  | .invalidOpcode pc => pc
  | .loadFault addr => addr
  | .storeFault addr => addr
  | .divZero pc => pc

/-- R136: the numeric code of a status (STATUS_CODES); the model's own `unmodelled` has none in the spec and is never
returned (notes/assumptions 6). -/
def Status.code (st : Status) (P : Params := Params.default) : Option Nat :=
  match st with
  | .cont => some P.statusCodes.cont
  | .halted => some P.statusCodes.halted
  | .paused => some P.statusCodes.paused
  | .error _ => some P.statusCodes.error
  | .unmodelled _ => none

/-- R148, R149: does the debugger pause before the fetch? Under BP_SKIP_ONCE (D29, off by default) it does so once
per arrival. -/
def State.atBreakpoint (s : State) (P : Params := Params.default) : Bool :=
  s.dbg.enabled && s.dbg.breakpoints.contains s.pc && !(P.bpSkipOnce && s.bpPassed)

/-- What a pause at a breakpoint leaves: nothing changes (R149), but that BP_SKIP_ONCE remembers the pause. -/
def State.pausedAtBreakpoint (s : State) (P : Params := Params.default) : State :=
  if P.bpSkipOnce then { s with bpPassed := true } else s

/-- What BP_SKIP_ONCE forgets when an instruction completes; nothing, by default. -/
def State.leftBreakpoint (s : State) (P : Params := Params.default) : State :=
  if P.bpSkipOnce then { s with bpPassed := false } else s

/-- R137's last three lines: the status after a completed instruction, HALTED before PAUSED (D28). -/
def State.statusAfter (s : State) : Status :=
  if s.halted then .halted
  else if s.dbg.enabled && s.dbg.singleStep then .paused
  else .cont

/-- The registers, the PC, SP and FP cut to XLEN bits. -/
def State.narrow (s : State) (P : Params := Params.default) : State :=
  if Config.xlen ≤ P.xlen then s
  else
    let t := (List.finRange 16).foldl (fun t r => t.setReg r (wrapTo P.xlen (t.reg r))) s
    { t with pc := wrapTo P.xlen t.pc, sp := wrapTo P.xlen t.sp, fp := wrapTo P.xlen t.fp }

/-- The end of a completed instruction (R137, R138): what it wrote is as wide as its registers (XLEN), and it counts. -/
def State.finish (s : State) (P : Params := Params.default) : State := ((s.narrow P).retire P).leftBreakpoint P

/-- R137 from the execution of a decoded instruction on: a fault leaves the state (R141), a completed
instruction counts (R138). -/
def executeDecoded (i : Instr) (s : State) (P : Params := Params.default) : Status × State :=
  match execWith i s P with
  | .next t => ((t.finish P).statusAfter, t.finish P)
  | .fault f => (.error f, s)
  | .refused r => (.unmodelled r, s)

/-- R137: one step, its status and the state afterwards, in the order of R143. -/
def engineStep (s : State) (P : Params := Params.default) : Status × State :=
  if s.halted then (.halted, s)
  else if s.atBreakpoint P then (.paused, s.pausedAtBreakpoint P)
  else if s.canFetch P then
    match decode (s.fetchBytes P) P with
    | .ok (i, _) => executeDecoded i s P
    | .error _ => (.error (.invalidOpcode s.pc), s)
  else (.error (.fetchFault s.pc), s)

/-- The three outcomes of Host.Core from a step's status (notes/assumptions 6): ERROR is a fault; CONTINUE,
HALTED and PAUSED carry the state the step leaves. -/
def outcomeOf (r : Status × State) : Host.Outcome State Fault Refusal :=
  match r.1 with
  | .error f => .fault f
  | .unmodelled why => .refused why
  | .cont => .next r.2
  | .halted => .next r.2
  | .paused => .next r.2

/-- One step under any parameters, as the host's interface sees it. `step` is this at the spec's defaults. -/
def stepWith (P : Params) (s : State) : Host.Outcome State Fault Refusal := outcomeOf (engineStep s P)

/-- What run returns (R139); `outOfFuel` is the model's own, for a run that has not stopped yet (IB5, D49;
notes/assumptions 8). -/
inductive RunResult
  | halted (exitCode : Word)
  | paused
  | error (f : Fault)
  | unmodelled (r : Refusal)
  | outOfFuel
deriving DecidableEq, Repr

/-- R139's loop, at most `fuel` steps; it leaves the running flag to `run`. -/
def runLoop (fuel : Nat) (s : State) (P : Params := Params.default) : RunResult × State :=
  match fuel with
  | 0 => (.outOfFuel, s)
  | fuel + 1 =>
    match engineStep s P with
    | (.cont, t) => runLoop fuel t P
    | (.halted, t) => (.halted t.exitCode, t)
    | (.paused, t) => if P.runStopsOnPause then (.paused, t) else runLoop fuel t P
    | (.error f, t) => (.error f, t)
    | (.unmodelled r, t) => (.unmodelled r, t)

/-- R139: run, at most `fuel` steps. The running flag is true while it executes, and so stays true when the
fuel ends first (R29). -/
def run (fuel : Nat) (s : State) (P : Params := Params.default) : RunResult × State :=
  match runLoop fuel (s.setRunning true) P with
  | (.outOfFuel, t) => (.outOfFuel, t)
  | (r, t) => (r, t.setRunning false)

/-! ### Placing an instruction for the next step (used by State.withFetchWord; notes/assumptions 10) -/

/-- The page's entry with everything a fetch needs added. -/
def PageTable.allowFetch (t : PageTable) (p : Nat) (P : Params := Params.default) : PageTable :=
  t.put p (t.entry p ||| P.protP ||| permFetch P)

/-- A pc whose word does not fit the address space is put at 0. -/
def State.fitPc (s : State) (P : Params := Params.default) : State :=
  if s.pc.toNat + P.insnBytes ≤ P.memSize then s else s.setPc 0#32

/-- A debugger that would pause at pc is disabled. -/
def State.passBreakpoint (s : State) (P : Params := Params.default) : State :=
  if s.atBreakpoint P then s.setDbg { s.dbg with enabled := false } else s

/-- The pages of the word at pc get what a fetch needs, if they lack it. -/
def State.openPages (s : State) (P : Params := Params.default) : State :=
  if s.canFetch P then s
  else s.setProt ((s.prot.allowFetch (s.pc.toNat / P.pageSize) P).allowFetch
    ((s.pc.toNat + (P.insnBytes - 1)) / P.pageSize) P)

/-- The state made ready to fetch at its pc, changing only what stands in the way: the halted flag, a pc whose
word does not fit the address space, a breakpoint at pc, pages that may not be fetched from. -/
def State.readyToFetch (s : State) (P : Params := Params.default) : State :=
  ((({ s with halted := false } : State).fitPc P).passBreakpoint P).openPages P

/-- The word's bytes at pc, in memory order. -/
def State.placeWord (s : State) (w : Word) (P : Params := Params.default) : State :=
  s.setMem (s.mem.writeBytes s.pc.toNat (bytesOfNat P.insnBytes w.toNat P.byteOrder))

end Sys2Proof.Machine
end

