-- ==== Sys2Proof/Machine/Step.lean ====
section
/-! DEFINITION. The step as Host.Core asks for it, and the placing of an instruction where it fetches next. -/

namespace Sys2Proof.Machine

/-- One step (R137). The step itself is `engineStep`, which also gives the status (R136). -/
def step (s : State) : Host.Outcome State Fault Refusal := outcomeOf (engineStep s)

/-- The instruction whose bits are `w` stored where the next step fetches, and the state ready to fetch it
(notes/assumptions 10). -/
def State.withFetchWord (s : State) (nbits w : Nat) : State :=
  s.readyToFetch.placeWord (tableWord nbits w)

end Sys2Proof.Machine
end

