-- ==== Sys2Proof/Machine/Assembly.lean ====
section
/-! DEFINITION. The assembly syntax (30_encoding.md R73, R74) as a printer and a reader of one line, and the
disassembler's contract (R77). Text is a list of characters, so that Lean's kernel can evaluate it. -/

namespace Sys2Proof.Machine

/-! ### Operands and the disassembler (R69's assembly column, R77) -/

/-- The operands of an instruction in assembly order (R69, R73). -/
def operandsOf (i : Instr) : List Operand :=
  match i with
  | .add rd rs1 rs2 => [.reg rd, .reg rs1, .reg rs2]
  | .sub rd rs1 rs2 => [.reg rd, .reg rs1, .reg rs2]
  | .mul rd rs1 rs2 => [.reg rd, .reg rs1, .reg rs2]
  | .neg rd rs1 => [.reg rd, .reg rs1]
  | .div rd rs1 rs2 => [.reg rd, .reg rs1, .reg rs2]
  | .mod rd rs1 rs2 => [.reg rd, .reg rs1, .reg rs2]
  | .and rd rs1 rs2 => [.reg rd, .reg rs1, .reg rs2]
  | .or rd rs1 rs2 => [.reg rd, .reg rs1, .reg rs2]
  | .xor rd rs1 rs2 => [.reg rd, .reg rs1, .reg rs2]
  | .not rd rs1 => [.reg rd, .reg rs1]
  | .shl rd rs1 rs2 => [.reg rd, .reg rs1, .reg rs2]
  | .shr rd rs1 rs2 => [.reg rd, .reg rs1, .reg rs2]
  | .load rd rs1 rs2 => [.reg rd, .reg rs1, .reg rs2]
  | .store rd rs1 rs2 => [.reg rd, .reg rs1, .reg rs2]
  | .loadb rd rs1 rs2 => [.reg rd, .reg rs1, .reg rs2]
  | .storeb rd rs1 rs2 => [.reg rd, .reg rs1, .reg rs2]
  | .loadi rd imm => [.reg rd, .imm imm]
  | .move rd rs1 => [.reg rd, .reg rs1]
  | .cmp rs1 rs2 => [.reg rs1, .reg rs2]
  | .test rs1 rs2 => [.reg rs1, .reg rs2]
  | .slt rd rs1 rs2 => [.reg rd, .reg rs1, .reg rs2]
  | .sle rd rs1 rs2 => [.reg rd, .reg rs1, .reg rs2]
  | .seq rd rs1 rs2 => [.reg rd, .reg rs1, .reg rs2]
  | .sne rd rs1 rs2 => [.reg rd, .reg rs1, .reg rs2]
  | .jmp t => [.target t]
  | .jz t => [.target t]
  | .jnz t => [.target t]
  | .jc t => [.target t]
  | .jnc t => [.target t]
  | .call t => [.target t]
  | .ret => []
  | .syscall => []
  | .halt => []

/-- R77: total; a legal opcode gives its mnemonic and operands, any other word is rendered raw. -/
def disassemble (w : Word) (P : Params := Params.default) : Disassembly :=
  match decodeWord w P with
  | .ok i => .legal i.mnemonic (operandsOf i)
  | .error _ => .raw w

/-- R77, D43: the text of the disassembly, which the spec leaves open. -/
def disassemblyText (w : Word) (P : Params := Params.default) : String :=
  Config.disassemblyText (disassemble w P)

/-! ### Printing a line -/

/-- The upper-case spelling of a mnemonic (R69). -/
def mnemonicName (m : Mnemonic) : List Char :=
  match m with
  | .add => ['A', 'D', 'D']
  | .sub => ['S', 'U', 'B']
  | .mul => ['M', 'U', 'L']
  | .neg => ['N', 'E', 'G']
  | .div => ['D', 'I', 'V']
  | .mod => ['M', 'O', 'D']
  | .and => ['A', 'N', 'D']
  | .or => ['O', 'R']
  | .xor => ['X', 'O', 'R']
  | .not => ['N', 'O', 'T']
  | .shl => ['S', 'H', 'L']
  | .shr => ['S', 'H', 'R']
  | .load => ['L', 'O', 'A', 'D']
  | .store => ['S', 'T', 'O', 'R', 'E']
  | .loadb => ['L', 'O', 'A', 'D', 'B']
  | .storeb => ['S', 'T', 'O', 'R', 'E', 'B']
  | .loadi => ['L', 'O', 'A', 'D', 'I']
  | .move => ['M', 'O', 'V', 'E']
  | .cmp => ['C', 'M', 'P']
  | .test => ['T', 'E', 'S', 'T']
  | .slt => ['S', 'L', 'T']
  | .sle => ['S', 'L', 'E']
  | .seq => ['S', 'E', 'Q']
  | .sne => ['S', 'N', 'E']
  | .jmp => ['J', 'M', 'P']
  | .jz => ['J', 'Z']
  | .jnz => ['J', 'N', 'Z']
  | .jc => ['J', 'C']
  | .jnc => ['J', 'N', 'C']
  | .call => ['C', 'A', 'L', 'L']
  | .ret => ['R', 'E', 'T']
  | .syscall => ['S', 'Y', 'S', 'C', 'A', 'L', 'L']
  | .halt => ['H', 'A', 'L', 'T']

/-- The digit characters of a number below 16. -/
def digitChar (d : Nat) : Char := if d < 10 then Char.ofNat (48 + d) else Char.ofNat (55 + d)

/-- The decimal digits of a number, most significant first; `fuel` bounds how many. -/
def decimalDigits : Nat → Nat → List Char
  | 0, _ => []
  | fuel + 1, n => (if n < 10 then [] else decimalDigits fuel (n / 10)) ++ [digitChar (n % 10)]

/-- R73: an immediate in decimal, optionally negative. -/
def printInt (v : Int) : List Char :=
  (if v < 0 then ['-'] else []) ++ decimalDigits 10 v.natAbs

/-- R73: one operand. -/
def printOperand (o : Operand) : List Char :=
  match o with
  | .reg r => 'r' :: decimalDigits 10 r.val
  | .imm v => printInt v
  | .target v => printInt v

/-- R73: operands separated by commas. -/
def printOperands : List Operand → List Char
  | [] => []
  | [o] => printOperand o
  | o :: os => printOperand o ++ [',', ' '] ++ printOperands os

/-- R73: the mnemonic, a space, then the operands, destination first. -/
def printLine (i : Instr) : List Char :=
  match operandsOf i with
  | [] => mnemonicName i.mnemonic
  | os => mnemonicName i.mnemonic ++ [' '] ++ printOperands os

/-! ### Reading a line -/

/-- Mnemonics are case-insensitive (R73): a letter's upper-case form. -/
def upperChar (c : Char) : Char := if 97 ≤ c.toNat ∧ c.toNat ≤ 122 then Char.ofNat (c.toNat - 32) else c

/-- The mnemonic a word spells. -/
def readMnemonic (cs : List Char) : Option Mnemonic :=
  (Config.opcodeMap.find? (fun row => mnemonicName row.mnemonic == cs.map upperChar)).map (·.mnemonic)

/-- The value of a digit in a base up to 16. -/
def digitValue (base : Nat) (c : Char) : Option Nat :=
  let n := (upperChar c).toNat
  let d := if 48 ≤ n ∧ n ≤ 57 then n - 48 else if 65 ≤ n ∧ n ≤ 70 then n - 55 else 16
  if d < base then some d else none

/-- Digits onto an accumulator. -/
def readDigitsFrom (base : Nat) : Nat → List Char → Option Nat
  | acc, [] => some acc
  | acc, c :: cs =>
    match digitValue base c with
    | some d => readDigitsFrom base (acc * base + d) cs
    | none => none

/-- A number of at least one digit. -/
def readDigits (base : Nat) (cs : List Char) : Option Nat :=
  if cs.isEmpty then none else readDigitsFrom base 0 cs

/-- R73: decimal, optionally negative, or hexadecimal with `0x`. -/
def readInt (cs : List Char) : Option Int :=
  match cs with
  | '0' :: 'x' :: ds => (readDigits 16 ds).map Int.ofNat
  | '-' :: ds => (readDigits 10 ds).map (fun n => -Int.ofNat n)
  | ds => (readDigits 10 ds).map Int.ofNat

/-- R73: `r0`..`r15`. -/
def readReg (cs : List Char) : Option RegIdx :=
  match cs with
  | 'r' :: ds => (readDigits 10 ds).bind (fun n => if h : n < 16 then some ⟨n, h⟩ else none)
  | _ => none

/-- Cuts text at commas and drops blanks (notes/assumptions 15). -/
def splitOperands (cs : List Char) : List (List Char) :=
  (cs.filter (fun c => c != ' ')).splitOn ','

/-- The instruction of a mnemonic and its operand texts; there are no pseudo-instructions (R74). -/
def readInstr (m : Mnemonic) (os : List (List Char)) : Option Instr :=
  let regs3 (f : RegIdx → RegIdx → RegIdx → Instr) : Option Instr :=
    match os with
    | [a, b, c] => (readReg a).bind fun x => (readReg b).bind fun y => (readReg c).map fun z => f x y z
    | _ => none
  let regs2 (f : RegIdx → RegIdx → Instr) : Option Instr :=
    match os with
    | [a, b] => (readReg a).bind fun x => (readReg b).map fun y => f x y
    | _ => none
  let jump (f : Int → Instr) : Option Instr :=
    match os with
    | [a] => (readInt a).map f
    | _ => none
  let bare (i : Instr) : Option Instr := if os.isEmpty then some i else none
  match m with
  | .add => regs3 .add
  | .sub => regs3 .sub
  | .mul => regs3 .mul
  | .neg => regs2 .neg
  | .div => regs3 .div
  | .mod => regs3 .mod
  | .and => regs3 .and
  | .or => regs3 .or
  | .xor => regs3 .xor
  | .not => regs2 .not
  | .shl => regs3 .shl
  | .shr => regs3 .shr
  | .load => regs3 .load
  | .store => regs3 .store
  | .loadb => regs3 .loadb
  | .storeb => regs3 .storeb
  | .loadi =>
    match os with
    | [a, b] => (readReg a).bind fun x => (readInt b).map fun v => .loadi x v
    | _ => none
  | .move => regs2 .move
  | .cmp => regs2 .cmp
  | .test => regs2 .test
  | .slt => regs3 .slt
  | .sle => regs3 .sle
  | .seq => regs3 .seq
  | .sne => regs3 .sne
  | .jmp => jump .jmp
  | .jz => jump .jz
  | .jnz => jump .jnz
  | .jc => jump .jc
  | .jnc => jump .jnc
  | .call => jump .call
  | .ret => bare .ret
  | .syscall => bare .syscall
  | .halt => bare .halt

/-- R73: one line of assembly. An out-of-range immediate is read as written; encoding it cuts it to its
field (R75). -/
def readLine (cs : List Char) : Option Instr :=
  let name := cs.takeWhile (fun c => c != ' ')
  let rest := (cs.dropWhile (fun c => c != ' ')).filter (fun c => c != ' ')
  (readMnemonic name).bind fun m => readInstr m (if rest.isEmpty then [] else splitOperands rest)

end Sys2Proof.Machine
end

