-- ==== Sys2Proof/Machine/HostCommands.lean ====
section
/-! DEFINITION. The host's commands, the block's interface (60_exceptions.md R150, R151, R156 to R164,
70_reset_and_hazards.md R165). Each is performed whole, between steps, in every state (R135, D46); one whose
arguments are invalid is rejected with no effect. -/

namespace Sys2Proof.Machine

/-! ### Reset, load, registers, memory, protection, timer -/

/-- R165: reset re-initialises an instance. It produces no output, consumes no input and takes nothing back
that the host already has (HO11; notes/assumptions 13). FLAGS_RESET and MEM_RESET may keep their part (D9, D10). -/
def State.hostReset (s : State) (P : Params := Params.default) : State :=
  { State.resetWith P with
    flags := match P.flagsReset with
      | .value f => f
      | .keep => s.flags
    mem := match P.memReset with
      | .fill _ => resetMemory P
      | .keep => s.mem
    output := s.output, inputs := s.inputs, draws := s.draws }

/-- R157: may the bytes be loaded at the address? -/
def loadAllowed (t : PageTable) (addr : Word) (n : Nat) (P : Params := Params.default) : Bool :=
  if n = 0 then zeroLenPasses P.zeroLenPolicy
  else if addr.toNat + n > P.memSize then false
  else (pagesOf addr.toNat (addr.toNat + n - 1) P).all (fun p => t.allows permPresent p P)

/-- R157: load needs only present pages. -/
def State.loadBytes (s : State) (bytes : List Byte) (addr : Word) (P : Params := Params.default) : Bool × State :=
  if loadAllowed s.prot addr bytes.length P then
    (true, s.setMem (s.mem.writeBytes addr.toNat bytes))
  else (false, s)

/-- R158: get-register (NREGS). -/
def State.hostGetReg (s : State) (i : Nat) (P : Params := Params.default) : Option Word :=
  if h : i < 16 ∧ i < P.nregs then some (s.reg ⟨i, h.1⟩) else none

/-- R158, C2: set-register (NREGS, XLEN). -/
def State.hostSetReg (s : State) (i : Nat) (v : Word) (P : Params := Params.default) : Bool × State :=
  if h : i < 16 ∧ i < P.nregs then (true, s.setReg ⟨i, h.1⟩ (wrapTo P.xlen v)) else (false, s)

/-- R159: read-memory, through the same check as guest code. -/
def State.hostReadMem (s : State) (addr : Word) (n : Nat) (P : Params := Params.default) : Option (List Byte) :=
  if s.canRead addr n P then some (s.mem.readBytes addr.toNat n) else none

/-- R159: write-memory. -/
def State.hostWriteMem (s : State) (addr : Word) (bytes : List Byte) (P : Params := Params.default) : Bool × State :=
  if s.canWrite addr bytes.length P then (true, s.setMem (s.mem.writeBytes addr.toNat bytes))
  else (false, s)

/-- R160: get-protection. -/
def State.hostGetProt (s : State) (p : Nat) (P : Params := Params.default) : Option Prot :=
  if p < P.npages then some (s.prot.entry p) else none

/-- R160: set-protection stores the low four bits (D7). -/
def State.hostSetProt (s : State) (p bits : Nat) (P : Params := Params.default) : Bool × State :=
  if p < P.npages then (true, s.setProt (s.prot.put p (BitVec.ofNat 4 bits))) else (false, s)

/-- R162: advance-tick changes only the tick (D12). -/
def State.hostAdvanceTick (s : State) (n : Nat) (P : Params := Params.default) : State := s.addTick (BitVec.ofNat 32 n) P

/-! ### The debugger (R150, R151) -/

/-- R151: enable and disable; disable keeps the single-step flag and the list (D11). -/
def State.setDebugEnabled (s : State) (b : Bool) : State := s.setDbg { s.dbg with enabled := b }

/-- R151: set and clear single-step. -/
def State.setSingleStep (s : State) (b : Bool) : State := s.setDbg { s.dbg with singleStep := b }

/-- R150: add(a). A duplicate succeeds with no change; a full list fails (D35). -/
def State.addBreakpoint (s : State) (a : Word) (P : Params := Params.default) : Bool × State :=
  if s.dbg.breakpoints.contains a then (true, s)
  else if s.dbg.breakpoints.length ≥ P.maxBreakpoints then (false, s)
  else (true, s.setDbg { s.dbg with breakpoints := s.dbg.breakpoints ++ [a] })

/-- R150: remove(a). An absent address fails (D35). -/
def State.removeBreakpoint (s : State) (a : Word) : Bool × State :=
  if s.dbg.breakpoints.contains a then
    (true, s.setDbg { s.dbg with breakpoints := s.dbg.breakpoints.filter (fun b => b != a) })
  else (false, s)

/-- R150: clear(). -/
def State.clearBreakpoints (s : State) : State := s.setDbg { s.dbg with breakpoints := [] }

/-! ### The command set (R164) -/

/-- A command to an existing instance. `run` carries the model's fuel (notes/assumptions 8). -/
inductive Command
  | reset
  | load (bytes : List Byte) (addr : Word)
  | getRegister (i : Nat)
  | setRegister (i : Nat) (v : Word)
  | readMemory (addr : Word) (n : Nat)
  | writeMemory (addr : Word) (bytes : List Byte)
  | getProtection (p : Nat)
  | setProtection (p bits : Nat)
  | step
  | run (fuel : Nat)
  | debuggerEnable
  | debuggerDisable
  | singleStepSet
  | singleStepClear
  | breakpointAdd (a : Word)
  | breakpointRemove (a : Word)
  | breakpointClear
  | readCounters
  | readTick
  | advanceTick (n : Nat)
  | disassemble (w : Word)
  | encodeR (op rd rs1 rs2 : Nat)
  | encodeI (op rd : Nat) (imm : Int)
  | encodeJ (op : Nat) (imm : Int)
deriving DecidableEq, Repr

/-- What a command answers. `created` and `noInstance` belong to the calls that name instances (R156). -/
inductive Reply
  | ok
  | fail
  | word (v : Word)
  | bytes (bs : List Byte)
  | protection (p : Prot)
  | status (st : Status)
  | ran (r : RunResult)
  | counters (instructions cycles : Count)
  | text (d : Disassembly) (t : String)
  | created (handle : Nat)
  | noInstance
deriving DecidableEq, Repr

/-- The answer of a command that either changes the state or is rejected. -/
def okOrFail (r : Bool × State) : Reply × State := (if r.1 then .ok else .fail, r.2)

/-- The answer of a command that only reads. -/
def valueOrFail (s : State) (r : Option Reply) : Reply × State := (r.getD .fail, s)

/-- R164: one command, its result and the state afterwards. -/
def perform (c : Command) (s : State) (P : Params := Params.default) : Reply × State :=
  match c with
  | .reset => (.ok, s.hostReset P)
  | .load bytes addr => okOrFail (s.loadBytes bytes addr P)
  | .getRegister i => valueOrFail s ((s.hostGetReg i P).map .word)
  | .setRegister i v => okOrFail (s.hostSetReg i v P)
  | .readMemory addr n => valueOrFail s ((s.hostReadMem addr n P).map .bytes)
  | .writeMemory addr bytes => okOrFail (s.hostWriteMem addr bytes P)
  | .getProtection p => valueOrFail s ((s.hostGetProt p P).map .protection)
  | .setProtection p bits => okOrFail (s.hostSetProt p bits P)
  | .step => (.status (engineStep s P).1, (engineStep s P).2)
  | .run fuel => (.ran (run fuel s P).1, (run fuel s P).2)
  | .debuggerEnable => (.ok, s.setDebugEnabled true)
  | .debuggerDisable => (.ok, s.setDebugEnabled false)
  | .singleStepSet => (.ok, s.setSingleStep true)
  | .singleStepClear => (.ok, s.setSingleStep false)
  | .breakpointAdd a => okOrFail (s.addBreakpoint a P)
  | .breakpointRemove a => okOrFail (s.removeBreakpoint a)
  | .breakpointClear => (.ok, s.clearBreakpoints)
  | .readCounters => (.counters s.dbg.instructions s.dbg.cycles, s)
  | .readTick => (.word s.tick, s)
  | .advanceTick n => (.ok, s.hostAdvanceTick n P)
  | .disassemble w => (.text (Machine.disassemble w P) (disassemblyText w P), s)
  | .encodeR op rd rs1 rs2 => (.word (Sys2Proof.encodeR op rd rs1 rs2 P.fieldLayout), s)
  | .encodeI op rd imm => (.word (Sys2Proof.encodeI op rd imm P.fieldLayout), s)
  | .encodeJ op imm => (.word (Sys2Proof.encodeJ op imm P.fieldLayout), s)

/-- The host's answer to a coming READ, lined up after those already there (R153; notes/assumptions 3). It
is the environment's act, no command of R164. -/
def State.lineUpInput (s : State) (reply : List Byte) : State := { s with inputs := s.inputs ++ [reply] }

/-! ### Several instances (R11, R156; notes/assumptions 9) -/

/-- The instances the host has made, by handle; none where one was destroyed. -/
abbrev Instances := List (Option State)

/-- What the host calls: create, destroy, or a command to one instance. -/
inductive Call
  | create
  | destroy (handle : Nat)
  | command (handle : Nat) (c : Command)
deriving DecidableEq, Repr

/-- R156: create makes a new instance in the reset state (D41); destroy ends one, and no call may name it
afterwards; a command acts on the one instance it names (R11). -/
def performCall (call : Call) (vms : Instances) (P : Params := Params.default) :
    Reply × Instances :=
  match call with
  | .create => (.created vms.length, vms ++ [some (State.resetWith P)])
  | .destroy h =>
    match vms[h]? with
    | some (some _) => (.ok, vms.set h none)
    | _ => (.noInstance, vms)
  | .command h c =>
    match vms[h]? with
    | some (some s) => ((perform c s P).1, vms.set h (some (perform c s P).2))
    | _ => (.noInstance, vms)

end Sys2Proof.Machine
end

