-- ==== Sys2Proof/Safety.lean ====
section
/-! DEFINITION. The terms claims are made in: which bytes an access may touch, what an instruction leaves
alone, the invariant of the machine, and agreement up to unreadable memory. -/

namespace Sys2Proof.Machine

/-! ### Access, byte by byte (20_memory.md R39, R41, R42) -/

/-- The byte at `a` exists and its page is present and grants every permission of `perm`. -/
def ByteAllowed (t : PageTable) (perm : Prot) (a : Nat) (P : Params := Params.default) : Prop :=
  a < P.memSize ∧ t.entry (a / P.pageSize) &&& (P.protP ||| perm) = P.protP ||| perm

/-- Every byte of the n bytes at `a` is allowed. -/
def RangeAllowed (t : PageTable) (perm : Prot) (a n : Nat) (P : Params := Params.default) : Prop :=
  ∀ k < n, ByteAllowed t perm (a + k) P

/-- `a` lies outside the n bytes at `lo`. -/
def Outside (lo n a : Nat) : Prop := a < lo ∨ lo + n ≤ a

/-! ### Frames -/

/-- Every part of the state but the general registers, the PC, the SP, the flags and memory is unchanged. -/
structure SameElsewhere (s t : State) : Prop where
  fp : t.fp = s.fp
  halted : t.halted = s.halted
  exitCode : t.exitCode = s.exitCode
  running : t.running = s.running
  prot : t.prot = s.prot
  heap : t.heap = s.heap
  tick : t.tick = s.tick
  dbg : t.dbg = s.dbg
  output : t.output = s.output
  inputs : t.inputs = s.inputs
  draws : t.draws = s.draws
  bpPassed : t.bpPassed = s.bpPassed

/-- Every general register outside `written` is unchanged. -/
def SameRegsBut (written : List RegIdx) (s t : State) : Prop := ∀ r, r ∉ written → t.reg r = s.reg r

/-- Every byte of memory reads as before. -/
def SameBytes (s t : State) : Prop := ∀ a, t.mem.read a = s.mem.read a

/-- Every byte of memory outside the n bytes at `lo` reads as before. -/
def SameBytesOutside (lo n : Nat) (s t : State) : Prop :=
  ∀ a, Outside lo n a → t.mem.read a = s.mem.read a

/-- The frame of an instruction that stores nothing: of the state, only the registers in `written`, the PC
and the flags may differ. -/
def OnlyRegisters (written : List RegIdx) (s t : State) : Prop :=
  SameRegsBut written s t ∧ t.sp = s.sp ∧ SameBytes s t ∧ SameElsewhere s t

/-- The frame of a store: only the n bytes at `lo` and the PC may differ. -/
def OnlyStored (lo n : Nat) (s t : State) : Prop :=
  SameRegsBut [] s t ∧ t.sp = s.sp ∧ t.flags = s.flags ∧ SameBytesOutside lo n s t ∧ SameElsewhere s t

/-! ### The invariant -/

/-- What every reachable state satisfies: memory in its canonical form and inside the address space (R39); one
protection entry per page (R31); fp at its reset value (R21); sp a multiple of 4 (R20, R22); the heap's base and size
constant and `used` at most `size + 3` (R33); at most 16 breakpoints, all distinct (R35). -/
structure MachineInv (s : State) (P : Params := Params.default) : Prop where
  memCanonical : s.mem.wf
  memInBounds : s.mem.inBounds P
  fpConstant : s.fp = wrapTo P.xlen P.spReset
  spAligned : s.sp.toNat % 4 = 0
  heapBase : s.heap.base = P.heapBase
  heapSize : s.heap.size = P.heapSize
  heapUsed : s.heap.used ≤ s.heap.size.toNat + 3
  breakpointsDistinct : s.dbg.breakpoints.Nodup
  breakpointsFew : s.dbg.breakpoints.length ≤ P.maxBreakpoints
  oneEntryPerPage : s.prot.length = P.npages

/-! ### What instructions may write -/

/-- The general registers an instruction writes (10_state.md R14); SYSCALL's result register is r0. -/
def destsOf (i : Instr) : List RegIdx :=
  match i with
  | .add rd _ _ => [rd]
  | .sub rd _ _ => [rd]
  | .mul rd _ _ => [rd]
  | .neg rd _ => [rd]
  | .div rd _ _ => [rd]
  | .mod rd _ _ => [rd]
  | .and rd _ _ => [rd]
  | .or rd _ _ => [rd]
  | .xor rd _ _ => [rd]
  | .not rd _ => [rd]
  | .shl rd _ _ => [rd]
  | .shr rd _ _ => [rd]
  | .load rd _ _ => [rd]
  | .store _ _ _ => []
  | .loadb rd _ _ => [rd]
  | .storeb _ _ _ => []
  | .loadi rd _ => [rd]
  | .move rd _ => [rd]
  | .cmp _ _ => []
  | .test _ _ => []
  | .slt rd _ _ => [rd]
  | .sle rd _ _ => [rd]
  | .seq rd _ _ => [rd]
  | .sne rd _ _ => [rd]
  | .jmp _ => []
  | .jz _ => []
  | .jnz _ => []
  | .jc _ => []
  | .jnc _ => []
  | .call _ => []
  | .ret => []
  | .syscall => [0]
  | .halt => []

/-- The instructions that write Z and N (R25). -/
def writesZN : List Mnemonic :=
  [.add, .sub, .mul, .neg, .div, .mod, .and, .or, .xor, .not, .shl, .shr, .cmp, .test]

/-- The instructions that write C and V (R25). -/
def writesCV : List Mnemonic := [.add, .sub, .mul, .neg, .cmp]

/-- The bits of a word that an instruction reads (R64, R69): the opcode and the fields it uses. -/
def usedBits (m : Mnemonic) : Word :=
  match m with
  | .add => 0xFF0FFF00#32
  | .sub => 0xFF0FFF00#32
  | .mul => 0xFF0FFF00#32
  | .neg => 0xFF0FF000#32
  | .div => 0xFF0FFF00#32
  | .mod => 0xFF0FFF00#32
  | .and => 0xFF0FFF00#32
  | .or => 0xFF0FFF00#32
  | .xor => 0xFF0FFF00#32
  | .not => 0xFF0FF000#32
  | .shl => 0xFF0FFF00#32
  | .shr => 0xFF0FFF00#32
  | .load => 0xFF0FFF00#32
  | .store => 0xFF0FFF00#32
  | .loadb => 0xFF0FFF00#32
  | .storeb => 0xFF0FFF00#32
  | .loadi => 0xFF0FFFFF#32
  | .move => 0xFF0FF000#32
  | .cmp => 0xFF00FF00#32
  | .test => 0xFF00FF00#32
  | .slt => 0xFF0FFF00#32
  | .sle => 0xFF0FFF00#32
  | .seq => 0xFF0FFF00#32
  | .sne => 0xFF0FFF00#32
  | .jmp => 0xFFFFFFFF#32
  | .jz => 0xFFFFFFFF#32
  | .jnz => 0xFFFFFFFF#32
  | .jc => 0xFFFFFFFF#32
  | .jnc => 0xFFFFFFFF#32
  | .call => 0xFFFFFFFF#32
  | .ret => 0xFF000000#32
  | .syscall => 0xFF000000#32
  | .halt => 0xFF000000#32

/-! ### Agreement up to unreadable memory (10_state.md R38, 20_memory.md R45) -/

/-- The two states agree in everything but the bytes on pages that grant no read permission. -/
structure AgreeOnReadable (s t : State) : Prop where
  rest : { t with mem := s.mem } = s
  bytes : ∀ a, ByteAllowed s.prot permRead a → t.mem.read a = s.mem.read a

end Sys2Proof.Machine
end

