-- ==== Sys2Proof/Certificates/Slice0/Obligations.lean ====
section
/-! DEFINITION. What the provers are asked to prove of the model, one `def Obligations.<Name> : Prop` each.
Every docstring names the rule of spec/ it formalises. Where a clause rests on a decision D<n> of
92_eei_decisions.md or on a convention of notes/assumptions, the docstring says so. -/

open Sys2Proof Sys2Proof.Machine

namespace Sys2Proof.Machine.Claims

/-- Z and N describe the value of `rd`, C and V are kept (R80, R88). -/
def FlagsZNOfResult (rd : RegIdx) (s t : State) : Prop :=
  (t.flags.z = true ↔ t.reg rd = 0#32) ∧ t.flags.n = (t.reg rd).getLsbD 31
    ∧ t.flags.c = s.flags.c ∧ t.flags.v = s.flags.v

/-- An exact integer fits the signed 32-bit range (R81). -/
def FitsSigned (v : Int) : Prop := -(2 ^ 31) ≤ v ∧ v ≤ 2 ^ 31 - 1

/-- The flags are unchanged and the PC has advanced by 4 (R17, D20). -/
def PlainAdvance (s t : State) : Prop := t.flags = s.flags ∧ t.pc = s.pc + 4#32

/-- Does the instruction itself set the PC from this state (R17)? -/
def ModifiesPc (i : Instr) (s : State) : Prop :=
  (∃ target, i = .jmp target) ∨ (∃ target, i = .call target) ∨ i = .ret
    ∨ (∃ target, i = .jz target ∧ s.flags.z = true) ∨ (∃ target, i = .jnz target ∧ s.flags.z = false)
    ∨ (∃ target, i = .jc target ∧ s.flags.c = true) ∨ (∃ target, i = .jnc target ∧ s.flags.c = false)

/-- The step gets past the halted test and the breakpoint test (R137). -/
def ReachesFetch (s : State) : Prop :=
  s.halted = false ∧ ¬(s.dbg.enabled = true ∧ s.pc ∈ s.dbg.breakpoints)

/-- The result is in r0, the other registers stand, and the PC has advanced by 4 (R121, R122). -/
def ResultInR0 (v : Word) (s t : State) : Prop :=
  t.reg 0 = v ∧ SameRegsBut [0] s t ∧ t.pc = s.pc + 4#32

/-- The arguments for which a command is rejected (R150, R157 to R160; IB8). -/
def Rejects (c : Command) (s : State) : Prop :=
  match c with
  | .load bytes addr => ¬RangeAllowed s.prot permPresent addr.toNat bytes.length
  | .getRegister i => 16 ≤ i
  | .setRegister i _ => 16 ≤ i
  | .readMemory addr n => ¬RangeAllowed s.prot permRead addr.toNat n
  | .writeMemory addr bytes => ¬RangeAllowed s.prot permWrite addr.toNat bytes.length
  | .getProtection p => 256 ≤ p
  | .setProtection p _ => 256 ≤ p
  | .breakpointAdd a => a ∉ s.dbg.breakpoints ∧ 16 ≤ s.dbg.breakpoints.length
  | .breakpointRemove a => a ∉ s.dbg.breakpoints
  | .reset => False
  | .step => False
  | .run _ => False
  | .debuggerEnable => False
  | .debuggerDisable => False
  | .singleStepSet => False
  | .singleStepClear => False
  | .breakpointClear => False
  | .readCounters => False
  | .readTick => False
  | .advanceTick _ => False
  | .disassemble _ => False
  | .encodeR _ _ _ _ => False
  | .encodeI _ _ _ => False
  | .encodeJ _ _ => False

end Sys2Proof.Machine.Claims

open Sys2Proof.Machine.Claims

/-! ### Encoding and decoding (30_encoding.md) -/

/-- R61 to R63, R69 (numbers and positions: D1, D2): words of 95_test_vectors.md, one or more a family,
decode to the instructions they stand for. -/
def Obligations.WordsOfTheVectorsDecode : Prop :=
  decodeTableWord 32 0x00031200 = some (.add 3 1 2) ∧
  decodeTableWord 32 0x03021000 = some (.neg 2 1) ∧
  decodeTableWord 32 0x0A031200 = some (.shl 3 1 2) ∧
  decodeTableWord 32 0x0D031200 = some (.store 3 1 2) ∧
  decodeTableWord 32 0x10018000 = some (.loadi 1 (-32768)) ∧
  decodeTableWord 32 0x12001200 = some (.cmp 1 2) ∧
  decodeTableWord 32 0x18FFFFFC = some (.jmp (-4)) ∧
  decodeTableWord 32 0x1D7FFFFF = some (.call 0x7FFFFF) ∧
  decodeTableWord 32 0x1F000000 = some .syscall ∧
  decodeTableWord 32 0x21000000 = none

/-- R76 (marked derived there): decoding what `encode_r`, `encode_i` and `encode_j` write gives every field
back. -/
def Obligations.RawFieldsRoundTrip : Prop :=
  ∀ op rd rs1 rs2 : Nat, op < 256 → rd < 16 → rs1 < 16 → rs2 < 16 →
    ((decodeFields (encodeR op rd rs1 rs2)).opcode.toNat = op ∧
      (decodeFields (encodeR op rd rs1 rs2)).rd.val = rd ∧
      (decodeFields (encodeR op rd rs1 rs2)).rs1.val = rs1 ∧
      (decodeFields (encodeR op rd rs1 rs2)).rs2.val = rs2) ∧
    (∀ imm : Int, -32768 ≤ imm → imm ≤ 32767 →
      (decodeFields (encodeI op rd imm)).opcode.toNat = op ∧
      (decodeFields (encodeI op rd imm)).rd.val = rd ∧
      sext (decodeFields (encodeI op rd imm)).imm16 = BitVec.ofInt 32 imm) ∧
    (∀ j : Int, -(2 ^ 23) ≤ j → j ≤ 2 ^ 23 - 1 →
      (decodeFields (encodeJ op j)).opcode.toNat = op ∧
      sext (decodeFields (encodeJ op j)).imm24 = BitVec.ofInt 32 j)

/-- R76, R59, R49: every well-formed instruction, encoded to bytes in memory order, decodes to itself with
nothing left over. -/
def Obligations.DecodeEncodeRoundTrip : Prop :=
  ∀ i : Instr, i.wellFormed = true → ∀ rest : List Byte, decode (encode i ++ rest) = .ok (i, rest)

/-- R69 ("a model must take OPCODE_MAP as an argument"), R76: the round trip holds under every opcode map
that gives no number twice, whatever numbers, formats and fields (D3) its rows have: where a row can carry the
instruction (`OpcodeRow.carries`; else `encodeWith` answers none), its word decodes back. The spec's own map gives every
instruction a word. What a row other than the default ones may hold, and that the encoder answers none where it cannot
carry the instruction, is the MODEL'S CHOICE (notes/assumptions 19: DESIGN CHOICE), no rule of the spec. -/
def Obligations.RoundTripUnderEveryOpcodeMap : Prop :=
  (∀ (map : OpcodeMap) (i : Instr) (w : Word), i.wellFormed = true → (map.map (·.number)).Nodup →
    encodeWith map i = some w → decodeWith map w = .ok i) ∧
  (Config.opcodeMap.map (·.number)).Nodup ∧
  ∀ i : Instr, encodeWith Config.opcodeMap i = some (encodeWord i)

/-- R64 (D2, D3): bits a format ignores and fields an instruction does not use change nothing: two words
that agree on the opcode and the fields the instruction uses decode alike. -/
def Obligations.UnusedBitsAreDontCare : Prop :=
  ∀ (m : Mnemonic) (w w' : Word), Config.opcodeMap.mnemonicOf (decodeFields w).opcode = some m →
    w &&& usedBits m = w' &&& usedBits m → decodeWord w' = decodeWord w ∧ ∃ i, decodeWord w = .ok i

/-- R71, R69 (numbers: D1): a word is an instruction exactly when its top byte is at most 0x20, and that byte is
then its mnemonic's number; what decodes is well-formed (R65, R66). -/
def Obligations.LegalExactlyUpToOpcode32 : Prop :=
  ∀ w : Word,
    ((decodeFields w).opcode.toNat ≤ 0x20 →
      ∃ i, decodeWord w = .ok i ∧ i.mnemonic.opcode = (decodeFields w).opcode ∧ i.wellFormed = true) ∧
    (0x20 < (decodeFields w).opcode.toNat →
      decodeWord w = .error (.invalidOpcode (decodeFields w).opcode))

/-! ### Arithmetic (40_arithmetic.md) -/

/-- R82: ADD, whole: its encoding (the number: D1), result, four flags (C against the old operand: D50), the PC, and what
it leaves alone. -/
def Obligations.AddWritesSumAndFlags : Prop :=
  ∀ (rd rs1 rs2 : RegIdx) (s : State),
    encodeWord (.add rd rs1 rs2) = encodeR 0x00 rd rs1 rs2 ∧
    ∃ t, exec (.add rd rs1 rs2) s = .next t ∧
      (t.reg rd).toNat = ((s.reg rs1).toNat + (s.reg rs2).toNat) % 2 ^ 32 ∧
      (t.flags.z = true ↔ t.reg rd = 0#32) ∧ t.flags.n = (t.reg rd).getLsbD 31 ∧
      (t.flags.c = true ↔ (t.reg rd).toNat < (s.reg rs1).toNat) ∧
      (t.flags.v = true ↔ ¬FitsSigned ((s.reg rs1).toInt + (s.reg rs2).toInt)) ∧
      t.pc = s.pc + 4#32 ∧ OnlyRegisters [rd] s t

/-- R83: SUB, whole: its encoding (the number: R69's choice, D1), result, four flags (C is a borrow, V in both of the rule's
forms; C against the old operands: R78, D50), the PC (R17), and what it leaves alone. It completes in every state. -/
def Obligations.SubWritesDifferenceAndFlags : Prop :=
  ∀ (rd rs1 rs2 : RegIdx) (s : State),
    encodeWord (.sub rd rs1 rs2) = encodeR 0x01 rd rs1 rs2 ∧
    ∃ t, exec (.sub rd rs1 rs2) s = .next t ∧
      ((t.reg rd).toNat : Int) = (((s.reg rs1).toNat : Int) - (s.reg rs2).toNat) % 2 ^ 32 ∧
      (t.flags.z = true ↔ t.reg rd = 0#32) ∧ t.flags.n = (t.reg rd).getLsbD 31 ∧
      (t.flags.c = true ↔ (s.reg rs1).toNat < (s.reg rs2).toNat) ∧
      (t.flags.v = true ↔ ¬FitsSigned ((s.reg rs1).toInt - (s.reg rs2).toInt)) ∧
      t.flags.v = ((s.reg rs1 ^^^ s.reg rs2) &&& (s.reg rs1 ^^^ t.reg rd)).getLsbD 31 ∧
      t.pc = s.pc + 4#32 ∧ OnlyRegisters [rd] s t

/-- R84, R85: MUL and NEG. The V clause of MUL is the spec's decision D14, the C and V clauses of NEG are D15. -/
def Obligations.MulAndNegWriteResultAndFlags : Prop :=
  ∀ (rd rs1 rs2 : RegIdx) (s : State),
    (∃ t, exec (.mul rd rs1 rs2) s = .next t ∧
      (t.reg rd).toNat = (s.reg rs1).toNat * (s.reg rs2).toNat % 2 ^ 32 ∧
      (t.flags.z = true ↔ t.reg rd = 0#32) ∧ t.flags.n = (t.reg rd).getLsbD 31 ∧
      (t.flags.c = true ↔ 2 ^ 32 ≤ (s.reg rs1).toNat * (s.reg rs2).toNat) ∧
      (t.flags.v = true ↔ ¬FitsSigned ((s.reg rs1).toInt * (s.reg rs2).toInt)) ∧
      t.pc = s.pc + 4#32 ∧ OnlyRegisters [rd] s t) ∧
    (∃ t, exec (.neg rd rs1) s = .next t ∧
      (t.reg rd).toNat = (2 ^ 32 - (s.reg rs1).toNat) % 2 ^ 32 ∧
      (t.flags.z = true ↔ t.reg rd = 0#32) ∧ t.flags.n = (t.reg rd).getLsbD 31 ∧
      (t.flags.c = true ↔ s.reg rs1 ≠ 0#32) ∧
      (t.flags.v = true ↔ s.reg rs1 = 0x80000000#32) ∧
      t.pc = s.pc + 4#32 ∧ OnlyRegisters [rd] s t)

/-- R86, R87: DIV and MOD with a non-zero divisor, as the unsigned quotient and remainder. Unsigned, and C and V
kept, are the spec's decision D16. -/
def Obligations.DivAndModCompleteOnNonZeroDivisor : Prop :=
  ∀ (rd rs1 rs2 : RegIdx) (s : State), s.reg rs2 ≠ 0#32 →
    ∃ t u, exec (.div rd rs1 rs2) s = .next t ∧ exec (.mod rd rs1 rs2) s = .next u ∧
      (s.reg rs1).toNat = (t.reg rd).toNat * (s.reg rs2).toNat + (u.reg rd).toNat ∧
      (u.reg rd).toNat < (s.reg rs2).toNat ∧
      FlagsZNOfResult rd s t ∧ FlagsZNOfResult rd s u ∧
      t.pc = s.pc + 4#32 ∧ u.pc = s.pc + 4#32 ∧ OnlyRegisters [rd] s t ∧ OnlyRegisters [rd] s u

/-- R81, R82 (the equivalences are marked derived there): the carry of ADD is unsigned overflow, and its overflow flag
is the XOR-of-sign-bits form. -/
def Obligations.AddCarryAndOverflowInTheirOtherForms : Prop :=
  ∀ (rd rs1 rs2 : RegIdx) (s t : State), exec (.add rd rs1 rs2) s = .next t →
    (t.flags.c = true ↔ 2 ^ 32 ≤ (s.reg rs1).toNat + (s.reg rs2).toNat) ∧
    t.flags.v = ((s.reg rs1 ^^^ t.reg rd) &&& (s.reg rs2 ^^^ t.reg rd)).getLsbD 31

/-- R86, R87, R117, R118, R141 (the state after a faulting CALL or RET: D25): DIV and MOD by zero raise DIV_ZERO with pc, CALL
on a slot that is not writable STORE_FAULT with sp - 4, RET on one that is not readable LOAD_FAULT with sp; nothing changes. -/
def Obligations.DivideAndStackFaultsHaveNoEffect : Prop :=
  ∀ (rd rs1 rs2 : RegIdx) (target : Int) (s : State),
    (s.reg rs2 = 0#32 →
      executeDecoded (.div rd rs1 rs2) s = (.error (.divZero s.pc), s) ∧
      executeDecoded (.mod rd rs1 rs2) s = (.error (.divZero s.pc), s)) ∧
    (¬RangeAllowed s.prot permWrite (s.sp - 4#32).toNat 4 →
      executeDecoded (.call target) s = (.error (.storeFault (s.sp - 4#32)), s)) ∧
    (¬RangeAllowed s.prot permRead s.sp.toNat 4 →
      executeDecoded .ret s = (.error (.loadFault s.sp), s))

/-! ### Logical and shift (41_logical_shift.md) -/

/-- R90 to R93, bit by bit. That C and V are kept (R88) is the spec's decision D17. -/
def Obligations.LogicalResultsBitByBit : Prop :=
  ∀ (rd rs1 rs2 : RegIdx) (s : State),
    (∃ t, exec (.and rd rs1 rs2) s = .next t ∧
      (∀ k, (t.reg rd).getLsbD k = ((s.reg rs1).getLsbD k && (s.reg rs2).getLsbD k)) ∧
      FlagsZNOfResult rd s t ∧ t.pc = s.pc + 4#32 ∧ OnlyRegisters [rd] s t) ∧
    (∃ t, exec (.or rd rs1 rs2) s = .next t ∧
      (∀ k, (t.reg rd).getLsbD k = ((s.reg rs1).getLsbD k || (s.reg rs2).getLsbD k)) ∧
      FlagsZNOfResult rd s t ∧ t.pc = s.pc + 4#32 ∧ OnlyRegisters [rd] s t) ∧
    (∃ t, exec (.xor rd rs1 rs2) s = .next t ∧
      (∀ k, (t.reg rd).getLsbD k = ((s.reg rs1).getLsbD k != (s.reg rs2).getLsbD k)) ∧
      FlagsZNOfResult rd s t ∧ t.pc = s.pc + 4#32 ∧ OnlyRegisters [rd] s t) ∧
    (∃ t, exec (.not rd rs1) s = .next t ∧
      (∀ k, k < 32 → (t.reg rd).getLsbD k = !(s.reg rs1).getLsbD k) ∧
      FlagsZNOfResult rd s t ∧ t.pc = s.pc + 4#32 ∧ OnlyRegisters [rd] s t)

/-- R94, R95, R89: the shifts as multiplication and division by a power of two, the amount taken mod 32. Logical
SHR is the spec's decision D18; that C and V are kept is D17. -/
def Obligations.ShiftsByAmountMod32 : Prop :=
  ∀ (rd rs1 rs2 : RegIdx) (s : State),
    (∃ t, exec (.shl rd rs1 rs2) s = .next t ∧
      (t.reg rd).toNat = (s.reg rs1).toNat * 2 ^ ((s.reg rs2).toNat % 32) % 2 ^ 32 ∧
      FlagsZNOfResult rd s t ∧ t.pc = s.pc + 4#32 ∧ OnlyRegisters [rd] s t) ∧
    (∃ t, exec (.shr rd rs1 rs2) s = .next t ∧
      (t.reg rd).toNat = (s.reg rs1).toNat / 2 ^ ((s.reg rs2).toNat % 32) ∧
      FlagsZNOfResult rd s t ∧ t.pc = s.pc + 4#32 ∧ OnlyRegisters [rd] s t)

/-! ### Loads and stores (42_memory_ops.md) -/

/-- R98, R100, R96: a load whose bytes are all readable completes with the bytes there, little-endian (D5), a
byte zero-extended (D22); no flag is written (D20). -/
def Obligations.LoadsReadReadableBytes : Prop :=
  ∀ (rd rs1 rs2 : RegIdx) (s : State),
    (RangeAllowed s.prot permRead (s.reg rs1 + s.reg rs2).toNat 4 →
      ∃ t, exec (.load rd rs1 rs2) s = .next t ∧
        (∀ k, k < 4 → (t.reg rd).extractLsb' (8 * k) 8 = s.mem.read ((s.reg rs1 + s.reg rs2).toNat + k)) ∧
        PlainAdvance s t ∧ OnlyRegisters [rd] s t) ∧
    (RangeAllowed s.prot permRead (s.reg rs1 + s.reg rs2).toNat 1 →
      ∃ t, exec (.loadb rd rs1 rs2) s = .next t ∧
        (t.reg rd).toNat = (s.mem.read (s.reg rs1 + s.reg rs2).toNat).toNat ∧
        PlainAdvance s t ∧ OnlyRegisters [rd] s t)

/-- R99, R101, R96: a store whose bytes are all writable completes, with the bytes of rd (D22) little-endian (D5)
at the effective address; every byte outside the 4 bytes (STORE) or the one byte (STOREB) reads as before, and no flag
is written (D20). -/
def Obligations.StoresWriteWritableBytes : Prop :=
  ∀ (rd rs1 rs2 : RegIdx) (s : State),
    (RangeAllowed s.prot permWrite (s.ea rs1 rs2).toNat 4 →
      ∃ t, exec (.store rd rs1 rs2) s = .next t ∧
        (∀ k, k < 4 → t.mem.read ((s.ea rs1 rs2).toNat + k) = (s.reg rd).extractLsb' (8 * k) 8) ∧
        t.pc = s.pc + 4#32 ∧ OnlyStored (s.ea rs1 rs2).toNat 4 s t) ∧
    (RangeAllowed s.prot permWrite (s.ea rs1 rs2).toNat 1 →
      ∃ t, exec (.storeb rd rs1 rs2) s = .next t ∧
        t.mem.read (s.ea rs1 rs2).toNat = (s.reg rd).extractLsb' 0 8 ∧
        t.pc = s.pc + 4#32 ∧ OnlyStored (s.ea rs1 rs2).toNat 1 s t)

/-- R97: a load or store with a byte that is not allowed raises its fault with the effective address, and
nothing changes: the check covers every byte. -/
def Obligations.DisallowedAccessFaultsWithNoEffect : Prop :=
  ∀ (rd rs1 rs2 : RegIdx) (s : State),
    (¬RangeAllowed s.prot permRead (s.ea rs1 rs2).toNat 4 →
      executeDecoded (.load rd rs1 rs2) s = (.error (.loadFault (s.ea rs1 rs2)), s)) ∧
    (¬RangeAllowed s.prot permRead (s.ea rs1 rs2).toNat 1 →
      executeDecoded (.loadb rd rs1 rs2) s = (.error (.loadFault (s.ea rs1 rs2)), s)) ∧
    (¬RangeAllowed s.prot permWrite (s.ea rs1 rs2).toNat 4 →
      executeDecoded (.store rd rs1 rs2) s = (.error (.storeFault (s.ea rs1 rs2)), s)) ∧
    (¬RangeAllowed s.prot permWrite (s.ea rs1 rs2).toNat 1 →
      executeDecoded (.storeb rd rs1 rs2) s = (.error (.storeFault (s.ea rs1 rs2)), s))

/-! ### Move, compare, set (43_move_compare.md) -/

/-- R103, R102, R65: MOVE copies a register and LOADI writes its signed immediate, reading no memory; that neither writes a
flag is the spec's decision D20. -/
def Obligations.MoveAndLoadiWriteOneRegister : Prop :=
  ∀ (rd rs1 : RegIdx) (imm : Int) (s : State),
    (∃ t, exec (.move rd rs1) s = .next t ∧ t.reg rd = s.reg rs1 ∧
      PlainAdvance s t ∧ OnlyRegisters [rd] s t) ∧
    ((Instr.loadi rd imm).wellFormed = true →
      ∃ t, exec (.loadi rd imm) s = .next t ∧ (t.reg rd).toInt = imm ∧
        PlainAdvance s t ∧ OnlyRegisters [rd] s t)

/-- R104: CMP writes the flags of the subtraction and no register; they are the flags SUB writes. Its number is D1, its
ignored rd D3. -/
def Obligations.CmpWritesFlagsOfSubOnly : Prop :=
  ∀ (rs1 rs2 : RegIdx) (s : State),
    encodeWord (.cmp rs1 rs2) = encodeR 0x12 0 rs1 rs2 ∧
    ∃ t, exec (.cmp rs1 rs2) s = .next t ∧
      (t.flags.z = true ↔ s.reg rs1 = s.reg rs2) ∧
      (t.flags.n = true ↔ 2 ^ 31 ≤ (((s.reg rs1).toNat : Int) - (s.reg rs2).toNat) % 2 ^ 32) ∧
      (t.flags.c = true ↔ (s.reg rs1).toNat < (s.reg rs2).toNat) ∧
      (t.flags.v = true ↔ ¬FitsSigned ((s.reg rs1).toInt - (s.reg rs2).toInt)) ∧
      (∀ rd u, exec (.sub rd rs1 rs2) s = .next u → t.flags = u.flags) ∧
      t.pc = s.pc + 4#32 ∧ OnlyRegisters [] s t

/-- R105: TEST is the flags-only AND, the spec's decision D19. -/
def Obligations.TestWritesZNOfAndOnly : Prop :=
  ∀ (rs1 rs2 : RegIdx) (s : State), ∃ t, exec (.test rs1 rs2) s = .next t ∧
    (t.flags.z = true ↔ ∀ k, k < 32 → ¬((s.reg rs1).getLsbD k = true ∧ (s.reg rs2).getLsbD k = true)) ∧
    t.flags.n = ((s.reg rs1).getLsbD 31 && (s.reg rs2).getLsbD 31) ∧
    t.flags.c = s.flags.c ∧ t.flags.v = s.flags.v ∧ t.pc = s.pc + 4#32 ∧ OnlyRegisters [] s t

/-- R106 to R110: the set instructions write 1 when the signed comparison or the (in)equality holds and 0
otherwise (which comparisons: D21); no flag is written (D20). -/
def Obligations.SetInstructionsWriteComparison : Prop :=
  ∀ (rd rs1 rs2 : RegIdx) (s : State),
    (∃ t, exec (.slt rd rs1 rs2) s = .next t ∧
      t.reg rd = (if (s.reg rs1).toInt < (s.reg rs2).toInt then 1#32 else 0#32) ∧
      PlainAdvance s t ∧ OnlyRegisters [rd] s t) ∧
    (∃ t, exec (.sle rd rs1 rs2) s = .next t ∧
      t.reg rd = (if (s.reg rs1).toInt ≤ (s.reg rs2).toInt then 1#32 else 0#32) ∧
      PlainAdvance s t ∧ OnlyRegisters [rd] s t) ∧
    (∃ t, exec (.seq rd rs1 rs2) s = .next t ∧
      t.reg rd = (if s.reg rs1 = s.reg rs2 then 1#32 else 0#32) ∧
      PlainAdvance s t ∧ OnlyRegisters [rd] s t) ∧
    (∃ t, exec (.sne rd rs1 rs2) s = .next t ∧
      t.reg rd = (if s.reg rs1 = s.reg rs2 then 0#32 else 1#32) ∧
      PlainAdvance s t ∧ OnlyRegisters [rd] s t)

/-! ### Control transfer (44_control_flow.md) -/

/-- R112 to R116: the five jumps, whole: their encodings (the numbers: R69's choice, D1); a taken jump goes to the
sign-extended target, one not taken to the next word; nothing but the PC changes (that no flag is written: D20) and none
can fault. -/
def Obligations.JumpsSetOnlyThePc : Prop :=
  ∀ (target : Int) (s : State), (Instr.jmp target).wellFormed = true →
    (encodeWord (.jmp target) = encodeJ 0x18 target ∧ encodeWord (.jz target) = encodeJ 0x19 target ∧
      encodeWord (.jnz target) = encodeJ 0x1A target ∧ encodeWord (.jc target) = encodeJ 0x1B target ∧
      encodeWord (.jnc target) = encodeJ 0x1C target) ∧
    exec (.jmp target) s = .next { s with pc := BitVec.ofInt 32 target } ∧
    exec (.jz target) s = .next { s with pc := if s.flags.z then BitVec.ofInt 32 target else s.pc + 4#32 } ∧
    exec (.jnz target) s = .next { s with pc := if s.flags.z then s.pc + 4#32 else BitVec.ofInt 32 target } ∧
    exec (.jc target) s = .next { s with pc := if s.flags.c then BitVec.ofInt 32 target else s.pc + 4#32 } ∧
    exec (.jnc target) s = .next { s with pc := if s.flags.c then s.pc + 4#32 else BitVec.ofInt 32 target }

/-- R117: CALL with a writable slot pushes pc + 4 at sp - 4 (little-endian, D5), moves sp there and jumps; it
writes no flag (D20) and no register. -/
def Obligations.CallPushesReturnAddressAndJumps : Prop :=
  ∀ (target : Int) (s : State), (Instr.call target).wellFormed = true →
    RangeAllowed s.prot permWrite (s.sp - 4#32).toNat 4 →
    ∃ t, exec (.call target) s = .next t ∧
      (∀ k, k < 4 → t.mem.read ((s.sp - 4#32).toNat + k) = (s.pc + 4#32).extractLsb' (8 * k) 8) ∧
      t.sp = s.sp - 4#32 ∧ t.pc = BitVec.ofInt 32 target ∧
      SameRegsBut [] s t ∧ t.flags = s.flags ∧ SameBytesOutside (s.sp - 4#32).toNat 4 s t ∧
      SameElsewhere s t

/-- R118: RET with a readable slot pops the word at sp into pc (little-endian, D5) and moves sp up by 4; it writes
no flag (D20) and no register. -/
def Obligations.RetPopsIntoPc : Prop :=
  ∀ s : State, RangeAllowed s.prot permRead s.sp.toNat 4 →
    ∃ t, exec .ret s = .next t ∧
      (∀ k, k < 4 → t.pc.extractLsb' (8 * k) 8 = s.mem.read (s.sp.toNat + k)) ∧
      t.sp = s.sp + 4#32 ∧ t.flags = s.flags ∧ SameRegsBut [] s t ∧ SameBytes s t ∧ SameElsewhere s t

/-- The round-trip law quoted in R118: after a CALL, a RET from any state with the same sp, a readable slot and the
pushed bytes untouched returns to the call's address plus 4 with sp as before the call. -/
def Obligations.CallThenRetReturns : Prop :=
  ∀ (target : Int) (s t u : State), exec (.call target) s = .next t →
    u.sp = t.sp → RangeAllowed u.prot permRead u.sp.toNat 4 →
    (∀ k, k < 4 → u.mem.read (u.sp.toNat + k) = t.mem.read (t.sp.toNat + k)) →
    ∃ v, exec .ret u = .next v ∧ v.pc = s.pc + 4#32 ∧ v.sp = s.sp

/-! ### System (45_system.md) -/

/-- R120, R124: HALT sets the halted flag, and EXIT also the exit code from r1; nothing else changes but the PC. That HALT
advances the PC is the spec's decision D26, that EXIT keeps x0 D32, its number D4. -/
def Obligations.HaltAndExitHalt : Prop :=
  ∀ s : State,
    (∃ t, exec .halt s = .next t ∧ t.halted = true ∧ t.pc = s.pc + 4#32 ∧
      { t with halted := s.halted, pc := s.pc } = s) ∧
    (s.reg 0 = 0#32 → ∃ t, exec .syscall s = .next t ∧ t.exitCode = s.reg 1 ∧ t.halted = true ∧
      t.pc = s.pc + 4#32 ∧ { t with exitCode := s.exitCode, halted := s.halted, pc := s.pc } = s)

/-- R121, R122 (no flag: D20): every SYSCALL completes, whatever the number; r1..r15, the flags, SP, FP, the protection table,
the running flag and the debugger's flags and list stay. -/
def Obligations.SyscallAlwaysCompletes : Prop :=
  ∀ s : State, ∃ t, exec .syscall s = .next t ∧ t.pc = s.pc + 4#32 ∧ SameRegsBut [0] s t ∧
    t.flags = s.flags ∧ t.sp = s.sp ∧ t.fp = s.fp ∧ t.prot = s.prot ∧ t.running = s.running ∧
    t.dbg.enabled = s.dbg.enabled ∧ t.dbg.singleStep = s.dbg.singleStep ∧
    t.dbg.breakpoints = s.dbg.breakpoints

/-- R125: PRINT emits the bytes of a readable range in address order and answers their number (D32); an unreadable
range gives -1 and no output; a zero length gives 0 and no output (D24). Its number is D4; one output event
for one PRINT is the model's form (notes/assumptions 5). -/
def Obligations.PrintEmitsReadableBytes : Prop :=
  ∀ s : State, s.reg 0 = 1#32 →
    (s.reg 2 = 0#32 → ∃ t, exec .syscall s = .next t ∧ ResultInR0 0#32 s t ∧
      { t with regs := s.regs, pc := s.pc } = s) ∧
    (s.reg 2 ≠ 0#32 → RangeAllowed s.prot permRead (s.reg 1).toNat (s.reg 2).toNat →
      ∃ t bytes, exec .syscall s = .next t ∧ ResultInR0 (s.reg 2) s t ∧
        t.output = s.output ++ [bytes] ∧ bytes.length = (s.reg 2).toNat ∧
        (∀ k, k < (s.reg 2).toNat → bytes[k]? = some (s.mem.read ((s.reg 1).toNat + k))) ∧
        { t with regs := s.regs, pc := s.pc, output := s.output } = s) ∧
    (¬RangeAllowed s.prot permRead (s.reg 1).toNat (s.reg 2).toNat →
      ∃ t, exec .syscall s = .next t ∧ ResultInR0 0xFFFFFFFF#32 s t ∧
        { t with regs := s.regs, pc := s.pc } = s)

/-- R126: READ stores the host's bytes, at most len of them, from addr on, answers their number, and leaves every
other byte; an unwritable range gives -1 and takes no input (D48), a zero length 0 (D24). Its number is D4. The
host's answer is any list of bytes: the one lined up in `inputs`, or the free value (notes/assumptions 3). -/
def Obligations.ReadStoresHostBytes : Prop :=
  ∀ s : State, s.reg 0 = 2#32 →
    (s.reg 2 = 0#32 → ∃ t, exec .syscall s = .next t ∧ ResultInR0 0#32 s t ∧
      { t with regs := s.regs, pc := s.pc } = s) ∧
    (s.reg 2 ≠ 0#32 → RangeAllowed s.prot permWrite (s.reg 1).toNat (s.reg 2).toNat →
      ∃ t bytes, exec .syscall s = .next t ∧ bytes.length ≤ (s.reg 2).toNat ∧
        (∀ reply rest, s.inputs = reply :: rest →
          bytes = reply.take (s.reg 2).toNat ∧ t.inputs = rest ∧ t.draws = s.draws) ∧
        (s.inputs = [] → t.inputs = [] ∧ t.draws = s.draws + 1) ∧
        ResultInR0 (BitVec.ofNat 32 bytes.length) s t ∧
        (∀ k (h : k < bytes.length), t.mem.read ((s.reg 1).toNat + k) = bytes[k]) ∧
        SameBytesOutside (s.reg 1).toNat bytes.length s t ∧
        { t with regs := s.regs, pc := s.pc, mem := s.mem, inputs := s.inputs, draws := s.draws } = s) ∧
    (¬RangeAllowed s.prot permWrite (s.reg 1).toNat (s.reg 2).toNat →
      ∃ t, exec .syscall s = .next t ∧ ResultInR0 0xFFFFFFFF#32 s t ∧
        { t with regs := s.regs, pc := s.pc } = s)

/-- R127, R128: GET_TIME answers the tick; SLEEP adds its amount to the tick mod 2^32 (D12) and to the cycle counter
mod 2^64 (D13), and answers 0 (D32). The numbers are D4. -/
def Obligations.GetTimeAndSleep : Prop :=
  ∀ s : State,
    (s.reg 0 = 3#32 → ∃ t, exec .syscall s = .next t ∧ ResultInR0 s.tick s t ∧
      { t with regs := s.regs, pc := s.pc } = s) ∧
    (s.reg 0 = 4#32 → ∃ t, exec .syscall s = .next t ∧ ResultInR0 0#32 s t ∧
      t.tick.toNat = (s.tick.toNat + (s.reg 1).toNat) % 2 ^ 32 ∧
      t.dbg.cycles.toNat = (s.dbg.cycles.toNat + (s.reg 1).toNat) % 2 ^ 64 ∧
      { t with regs := s.regs, pc := s.pc, tick := s.tick,
               dbg := { t.dbg with cycles := s.dbg.cycles } } = s)

/-- R129, R133 (exact integers and the heap's place: D34; the number: D4): ALLOC answers 0 and changes nothing when
used + size exceeds the heap's size; else it answers base + used (as a 32-bit value, notes/assumptions 7) and
advances used by the size rounded up to a multiple of 4. -/
def Obligations.AllocAnswersOrFails : Prop :=
  ∀ s : State, s.reg 0 = 5#32 →
    (s.heap.size.toNat < s.heap.used + (s.reg 1).toNat →
      ∃ t, exec .syscall s = .next t ∧ ResultInR0 0#32 s t ∧
        { t with regs := s.regs, pc := s.pc } = s) ∧
    (s.heap.used + (s.reg 1).toNat ≤ s.heap.size.toNat →
      ∃ t, exec .syscall s = .next t ∧
        ResultInR0 (BitVec.ofNat 32 (s.heap.base.toNat + s.heap.used)) s t ∧
        4 ∣ t.heap.used - s.heap.used ∧ s.heap.used + (s.reg 1).toNat ≤ t.heap.used ∧
        t.heap.used < s.heap.used + (s.reg 1).toNat + 4 ∧
        { t with regs := s.regs, pc := s.pc, heap := { t.heap with used := s.heap.used } } = s)

/-- The scenario of R133 and the law of R134: from a state that meets the invariant, two successful ALLOCs with any
number of FREEs between them give blocks inside the heap region that do not overlap. -/
def Obligations.AllocatedBlocksAreDisjoint : Prop :=
  ∀ s t u v : State, MachineInv s → s.reg 0 = 5#32 → s.heap.used + (s.reg 1).toNat ≤ s.heap.size.toNat →
    exec .syscall s = .next t → u.heap = t.heap → u.reg 0 = 5#32 →
    u.heap.used + (u.reg 1).toNat ≤ u.heap.size.toNat → exec .syscall u = .next v →
    Config.heapBase.toNat ≤ (t.reg 0).toNat ∧
    (t.reg 0).toNat + (s.reg 1).toNat ≤ (v.reg 0).toNat ∧
    (v.reg 0).toNat + (u.reg 1).toNat ≤ Config.heapBase.toNat + Config.heapSize.toNat

/-- R130, R134, R131, R132: FREE changes nothing but r0, which gets 0 (D32); the file operations and every unknown
number answer -1 and change nothing else. The numbers are D4. -/
def Obligations.FreeFileOpsAndUnknownNumbers : Prop :=
  ∀ s : State,
    (s.reg 0 = 6#32 → ∃ t, exec .syscall s = .next t ∧ ResultInR0 0#32 s t ∧
      { t with regs := s.regs, pc := s.pc } = s) ∧
    (7 ≤ (s.reg 0).toNat → ∃ t, exec .syscall s = .next t ∧ ResultInR0 0xFFFFFFFF#32 s t ∧
      { t with regs := s.regs, pc := s.pc } = s)

/-! ### The step (60_exceptions.md) -/

/-- R137: when the step gets to the fetch and the bytes at pc decode to i, it is exec of i, plus 1 on each counter when
i completes. -/
def Obligations.StepRunsDecodedInstruction : Prop :=
  ∀ (s : State) (i : Instr) (rest : List Byte), ReachesFetch s →
    RangeAllowed s.prot permFetch s.pc.toNat 4 →
    decode (s.mem.readBytes s.pc.toNat 4) = .ok (i, rest) →
    step s = match exec i s with
      | .next t => .next { t with dbg := { t.dbg with
          instructions := t.dbg.instructions + 1#64, cycles := t.dbg.cycles + 1#64 } }
      | .fault f => .fault f
      | .refused r => .refused r

/-- R137, R149, R155 (the halted test first: D27; no skip-once: D29): a halted machine, and one at a breakpoint with
the debugger enabled, step without changing anything. -/
def Obligations.HaltedAndBreakpointStepsChangeNothing : Prop :=
  ∀ s : State,
    (s.halted = true → engineStep s = (.halted, s) ∧ step s = .next s) ∧
    (s.halted = false → s.dbg.enabled = true → s.pc ∈ s.dbg.breakpoints →
      engineStep s = (.paused, s) ∧ step s = .next s)

/-- R44: a pc whose 4 bytes are not all present, readable and executable gives FETCH_FAULT with pc and nothing else;
otherwise the word decoded is `MemRead(pc, 4)`. -/
def Obligations.FetchFaultsOrReadsTheWordAtPc : Prop :=
  ∀ s : State, ReachesFetch s →
    (¬RangeAllowed s.prot permFetch s.pc.toNat 4 → engineStep s = (.error (.fetchFault s.pc), s)) ∧
    (RangeAllowed s.prot permFetch s.pc.toNat 4 →
      engineStep s = match decodeWord (BitVec.ofNat 32 (s.mem.readNat s.pc.toNat 4)) with
        | .ok i => executeDecoded i s
        | .error _ => (.error (.invalidOpcode s.pc), s))

/-- R71, R59 (the numbers: D1; the byte order: D5): a fetched word whose byte at pc + 3 is above 0x20 gives
INVALID_OPCODE with pc and changes nothing. -/
def Obligations.IllegalOpcodeFaults : Prop :=
  ∀ s : State, ReachesFetch s → RangeAllowed s.prot permFetch s.pc.toNat 4 →
    0x20 < (s.mem.read (s.pc.toNat + 3)).toNat →
    engineStep s = (.error (.invalidOpcode s.pc), s) ∧ step s = .fault (.invalidOpcode s.pc)

/-- R141: an instruction's fault ends the step with ERROR and its cause and info, and a step that ends with ERROR has
changed nothing at all; the fault is what the step answers. -/
def Obligations.FaultsEndTheStepAndChangeNothing : Prop :=
  (∀ (s : State) (i : Instr) (f : Fault), exec i s = .fault f → executeDecoded i s = (.error f, s)) ∧
  ∀ (s t : State) (f : Fault), engineStep s = (.error f, t) → t = s ∧ step s = .fault f

/-- R137, R138, R143 (HALTED before PAUSED: D28; SLEEP's number: D4): a completed instruction adds 1 to the instruction counter
and 1, plus the amount of a SLEEP, to the cycle counter; the status is HALTED if it halted, else PAUSED when single-stepping, else
CONTINUE. -/
def Obligations.CompletedStepCountersAndStatus : Prop :=
  ∀ (s t : State) (i : Instr), exec i s = .next t →
    (executeDecoded i s).2.dbg.instructions = s.dbg.instructions + 1#64 ∧
    (executeDecoded i s).2.dbg.cycles = s.dbg.cycles + 1#64 +
      (if i = .syscall ∧ s.reg 0 = 4#32 then (s.reg 1).setWidth 64 else 0#64) ∧
    (t.halted = true → (executeDecoded i s).1 = .halted) ∧
    (t.halted = false → s.dbg.enabled = true → s.dbg.singleStep = true →
      (executeDecoded i s).1 = .paused) ∧
    (t.halted = false → ¬(s.dbg.enabled = true ∧ s.dbg.singleStep = true) →
      (executeDecoded i s).1 = .cont)

/-- R139 (stopping on PAUSED: D30; fuel: notes/assumptions 8): run repeats the step while it answers CONTINUE, returns
at the first other status, with the exit code when it is HALTED, and leaves running false. -/
def Obligations.RunStopsAtTheFirstOtherStatus : Prop :=
  ∀ (s : State) (n fuel : Nat) (path : Nat → State), path 0 = s.setRunning true →
    (∀ k, k < n → engineStep (path k) = (.cont, path (k + 1))) → n < fuel →
    ((engineStep (path n)).1 = .halted →
      run fuel s = (.halted (engineStep (path n)).2.exitCode, (engineStep (path n)).2.setRunning false)) ∧
    (∀ f, (engineStep (path n)).1 = .error f → run fuel s = (.error f, (path n).setRunning false)) ∧
    ((engineStep (path n)).1 = .paused →
      run fuel s = (.paused, (engineStep (path n)).2.setRunning false))

/-! ### Whole-machine rules -/

/-- R17: an instruction that completes and did not itself modify the PC advances it by 4. -/
def Obligations.PcAdvancesUnlessModified : Prop :=
  ∀ (s t : State) (i : Instr), exec i s = .next t → ¬ModifiesPc i s → t.pc = s.pc + 4#32

/-- R14, R20, R21: of the general registers an instruction writes only its destination; only CALL and RET write SP; no
instruction writes FP. -/
def Obligations.OnlyNamedRegistersAreWritten : Prop :=
  ∀ (s t : State) (i : Instr), exec i s = .next t →
    SameRegsBut (destsOf i) s t ∧ (i.mnemonic ≠ .call → i.mnemonic ≠ .ret → t.sp = s.sp) ∧ t.fp = s.fp

/-- R25 (its table is marked derived; D16, D17, D19, D20): which instructions may write which flags. -/
def Obligations.OnlyListedInstructionsWriteFlags : Prop :=
  ∀ (s t : State) (i : Instr), exec i s = .next t →
    (i.mnemonic ∉ writesZN → t.flags = s.flags) ∧
    (i.mnemonic ∉ writesCV → t.flags.c = s.flags.c ∧ t.flags.v = s.flags.v)

/-- R27, R28: only HALT and the EXIT syscall (its number: D4) set the halted flag, no step clears it, and only EXIT
writes the exit code. -/
def Obligations.OnlyHaltAndExitHalt : Prop :=
  ∀ (s t : State) (i : Instr), exec i s = .next t →
    (t.halted ≠ s.halted → i = .halt ∨ (i = .syscall ∧ s.reg 0 = 0#32)) ∧
    (s.halted = true → t.halted = true) ∧
    (t.exitCode ≠ s.exitCode → i = .syscall ∧ s.reg 0 = 0#32)

/-- R31, R29, R33, R35: no step writes the protection table, the running flag, the heap's base and size, or the
debugger's flags and breakpoint list. -/
def Obligations.StepsKeepHostOwnedState : Prop :=
  ∀ s t : State, step s = .next t →
    t.prot = s.prot ∧ t.running = s.running ∧ t.heap.base = s.heap.base ∧ t.heap.size = s.heap.size ∧
    t.dbg.enabled = s.dbg.enabled ∧ t.dbg.singleStep = s.dbg.singleStep ∧
    t.dbg.breakpoints = s.dbg.breakpoints

/-- R43, R45, R52: a byte on a page without write permission (or outside the address space) is changed by no step. -/
def Obligations.UnwritableBytesNeverChange : Prop :=
  ∀ (s t : State) (a : Nat), step s = .next t → ¬ByteAllowed s.prot permWrite a →
    t.mem.read a = s.mem.read a

/-- R58, R54, R32: under the default layout no page is both writable and executable, so no run of any length changes a
byte below 0x4000, from any state with that layout. -/
def Obligations.CodeBytesConstantUnderDefaultLayout : Prop :=
  ∀ (n : Nat) (s t : State), s.prot = PageTable.default → Host.Core.run Sys2Proof.core n s = .next t →
    t.prot = PageTable.default ∧ ∀ a, a < 0x4000 → t.mem.read a = s.mem.read a

/-- R38, R41, R45: bytes on pages without read permission influence nothing: two states that agree on everything else
take steps with the same status to states that agree on everything else. -/
def Obligations.UnreadableBytesInfluenceNothing : Prop :=
  ∀ s t : State, AgreeOnReadable s t →
    (engineStep t).1 = (engineStep s).1 ∧ AgreeOnReadable (engineStep s).2 (engineStep t).2

/-! ### Reset and the invariant (70_reset_and_hazards.md, 10_state.md) -/

/-- R15, R19, R22, R27, R32 (source) and R26, R28 to R30, R33, R34, R36 (D9 to D12, D30, D34, D38): the values after
reset. -/
def Obligations.ResetValues : Prop :=
  (∀ r, State.reset.reg r = 0#32) ∧ State.reset.pc = 0#32 ∧ State.reset.sp = 0xFFFC#32 ∧
  State.reset.fp = 0xFFFC#32 ∧ State.reset.flags = ⟨false, false, false, false⟩ ∧
  State.reset.halted = false ∧ State.reset.exitCode = 0#32 ∧ State.reset.running = false ∧
  (∀ a, State.reset.mem.read a = 0#8) ∧
  (∀ p, p < 64 → State.reset.prot.entry p = 0xB#4) ∧
  (∀ p, 64 ≤ p → p < 192 → State.reset.prot.entry p = 0x7#4) ∧
  (∀ p, 192 ≤ p → p < 224 → State.reset.prot.entry p = 0x0#4) ∧
  (∀ p, 224 ≤ p → p < 256 → State.reset.prot.entry p = 0x7#4) ∧
  State.reset.heap = ⟨0x4000#32, 0x8000#32, 0⟩ ∧ State.reset.tick = 0#32 ∧
  State.reset.dbg = ⟨false, false, [], 0#64, 0#64⟩

/-- R37, R33, R35: the invariant holds after reset. -/
def Obligations.InvariantHoldsAtReset : Prop := MachineInv State.reset

/-- R20, R21, R33, R39 with R117, R118 and R133: every step keeps the invariant, from every state that meets it. -/
def Obligations.StepKeepsInvariant : Prop :=
  ∀ s t : State, MachineInv s → step s = .next t → MachineInv t

/-- R156 to R164: every host command, a run of any fuel included, keeps the invariant. -/
def Obligations.HostCommandsKeepInvariant : Prop :=
  ∀ (c : Command) (s : State), MachineInv s → MachineInv (perform c s).2

/-! ### Host commands (60_exceptions.md section 7) -/

/-- R164, R157 to R160, R150 (IB8; capacity and absent addresses: D35): a command fails exactly when its arguments are
invalid, and then changes nothing. -/
def Obligations.CommandsFailExactlyOnInvalidArguments : Prop :=
  ∀ (c : Command) (s : State),
    ((perform c s).1 = .fail ↔ Rejects c s) ∧ (Rejects c s → (perform c s).2 = s)

/-- R157 (present pages only; a zero length succeeds: D42): load writes its bytes on present pages, whatever their other
permissions, and changes nothing else. -/
def Obligations.LoadNeedsOnlyPresentPages : Prop :=
  ∀ (s : State) (bytes : List Byte) (addr : Word),
    RangeAllowed s.prot permPresent addr.toNat bytes.length →
    (perform (.load bytes addr) s).1 = .ok ∧
    (∀ k (h : k < bytes.length), (perform (.load bytes addr) s).2.mem.read (addr.toNat + k) = bytes[k]) ∧
    SameBytesOutside addr.toNat bytes.length s (perform (.load bytes addr) s).2 ∧
    { (perform (.load bytes addr) s).2 with mem := s.mem } = s

/-- R160, R46 (the bits' values: D7): set-protection stores the low four bits as one page's entry, get-protection reads
it back, and nothing else changes. -/
def Obligations.SetProtectionOverwritesOnePage : Prop :=
  ∀ (s : State) (p bits : Nat), p < 256 →
    (perform (.setProtection p bits) s).1 = .ok ∧
    (perform (.getProtection p) (perform (.setProtection p bits) s).2).1 = .protection (BitVec.ofNat 4 bits) ∧
    (∀ q, q ≠ p → (perform (.setProtection p bits) s).2.prot.entry q = s.prot.entry q) ∧
    { (perform (.setProtection p bits) s).2 with prot := s.prot } = s

/-- R158: get-register and set-register for 0..15, any other index failing with no effect; and no command of the host but
reset, step and run changes the PC, SP, FP or the flags. -/
def Obligations.RegisterCommands : Prop :=
  (∀ (s : State) (i : Nat) (h : i < 16) (v : Word),
    perform (.getRegister i) s = (.word (s.reg ⟨i, h⟩), s) ∧
    (perform (.setRegister i v) s).1 = .ok ∧ (perform (.setRegister i v) s).2.reg ⟨i, h⟩ = v ∧
    SameRegsBut [⟨i, h⟩] s (perform (.setRegister i v) s).2 ∧
    { (perform (.setRegister i v) s).2 with regs := s.regs } = s) ∧
  (∀ (s : State) (i : Nat) (v : Word), 16 ≤ i →
    perform (.getRegister i) s = (.fail, s) ∧ perform (.setRegister i v) s = (.fail, s)) ∧
  ∀ (c : Command) (s : State), c ≠ .reset → c ≠ .step → (∀ fuel, c ≠ .run fuel) →
    (perform c s).2.pc = s.pc ∧ (perform c s).2.sp = s.sp ∧ (perform c s).2.fp = s.fp ∧
    (perform c s).2.flags = s.flags

/-- R159, R41 (bounds: D23): read-memory and write-memory go through the guest's check, byte by byte; a failed check fails
the command with no effect. That no bytes at all pass the check at every address is the spec's decision D24. -/
def Obligations.MemoryCommandsGoThroughTheCheck : Prop :=
  ∀ (s : State) (addr : Word) (n : Nat) (bytes : List Byte),
    (RangeAllowed s.prot permRead addr.toNat n →
      ∃ bs, perform (.readMemory addr n) s = (.bytes bs, s) ∧ bs.length = n ∧
        ∀ k, k < n → bs[k]? = some (s.mem.read (addr.toNat + k))) ∧
    (¬RangeAllowed s.prot permRead addr.toNat n → perform (.readMemory addr n) s = (.fail, s)) ∧
    (RangeAllowed s.prot permWrite addr.toNat bytes.length →
      (perform (.writeMemory addr bytes) s).1 = .ok ∧
      (∀ k (h : k < bytes.length),
        (perform (.writeMemory addr bytes) s).2.mem.read (addr.toNat + k) = bytes[k]) ∧
      SameBytesOutside addr.toNat bytes.length s (perform (.writeMemory addr bytes) s).2 ∧
      { (perform (.writeMemory addr bytes) s).2 with mem := s.mem } = s) ∧
    (¬RangeAllowed s.prot permWrite addr.toNat bytes.length →
      perform (.writeMemory addr bytes) s = (.fail, s))

/-- R150, R151, R162 (capacity, duplicates, absent addresses: D35; disable keeps the list: D11; the timer: D12): what the
debugger's and the timer's commands do, and that they change nothing else. -/
def Obligations.DebuggerAndTimerCommands : Prop :=
  ∀ (s : State) (a : Word) (n : Nat),
    (a ∈ s.dbg.breakpoints → perform (.breakpointAdd a) s = (.ok, s)) ∧
    (a ∉ s.dbg.breakpoints → s.dbg.breakpoints.length < 16 →
      perform (.breakpointAdd a) s =
        (.ok, { s with dbg := { s.dbg with breakpoints := s.dbg.breakpoints ++ [a] } })) ∧
    (a ∈ s.dbg.breakpoints →
      perform (.breakpointRemove a) s =
        (.ok, { s with dbg := { s.dbg with breakpoints := s.dbg.breakpoints.filter (fun b => b != a) } })) ∧
    perform .breakpointClear s = (.ok, { s with dbg := { s.dbg with breakpoints := [] } }) ∧
    perform .debuggerEnable s = (.ok, { s with dbg := { s.dbg with enabled := true } }) ∧
    perform .debuggerDisable s = (.ok, { s with dbg := { s.dbg with enabled := false } }) ∧
    perform .singleStepSet s = (.ok, { s with dbg := { s.dbg with singleStep := true } }) ∧
    perform .singleStepClear s = (.ok, { s with dbg := { s.dbg with singleStep := false } }) ∧
    perform .readCounters s = (.counters s.dbg.instructions s.dbg.cycles, s) ∧
    perform .readTick s = (.word s.tick, s) ∧
    (perform (.advanceTick n) s).1 = .ok ∧
    (perform (.advanceTick n) s).2.tick.toNat = (s.tick.toNat + n) % 2 ^ 32 ∧
    { (perform (.advanceTick n) s).2 with tick := s.tick } = s

/-- R165 (HO11): reset gives every piece of the VM's state its reset value from any state, and keeps what the host's
streams hold (notes/assumptions 13). -/
def Obligations.ResetCommandRestoresResetState : Prop :=
  ∀ s : State, (perform .reset s).1 = .ok ∧
    { (perform .reset s).2 with output := [], inputs := [], draws := 0 } = State.reset ∧
    (perform .reset s).2.output = s.output ∧ (perform .reset s).2.inputs = s.inputs

/-- R11, R156: a call changes no instance but the one it names, and create adds one in the reset state (D41). That an
instance is named by its index, the new one by the number of those before it, is the model's choice, not the spec's:
notes/assumptions 9 (DESIGN CHOICE). -/
def Obligations.InstancesAreIndependent : Prop :=
  ∀ vms : Instances,
    (∀ (h k : Nat) (c : Command), k ≠ h → (performCall (.command h c) vms).2[k]? = vms[k]?) ∧
    (∀ (h k : Nat), k ≠ h → (performCall (.destroy h) vms).2[k]? = vms[k]?) ∧
    (∀ k : Nat, k < vms.length → (performCall .create vms).2[k]? = vms[k]?) ∧
    (performCall .create vms).1 = .created vms.length ∧
    (performCall .create vms).2[vms.length]? = some (some State.reset)
end

