-- ==== Sys2Proof/Laws/Params.lean ====
section
/-! SUPPORT. The parameters at their defaults (00_scope.md R7), one lemma per field, and a counter of full width, so
that no later proof unfolds `Params.default`. -/

namespace Sys2Proof

@[simp] theorem Params.default_xlen : Params.default.xlen = Config.xlen := rfl
@[simp] theorem Params.default_nregs : Params.default.nregs = Config.nregs := rfl
@[simp] theorem Params.default_insnBytes : Params.default.insnBytes = Config.insnBytes := rfl
@[simp] theorem Params.default_pageSize : Params.default.pageSize = Config.pageSize := rfl
@[simp] theorem Params.default_npages : Params.default.npages = Config.npages := rfl
@[simp] theorem Params.default_spReset : Params.default.spReset = Config.spReset := rfl
@[simp] theorem Params.default_heapBase : Params.default.heapBase = Config.heapBase := rfl
@[simp] theorem Params.default_heapSize : Params.default.heapSize = Config.heapSize := rfl
@[simp] theorem Params.default_maxBreakpoints : Params.default.maxBreakpoints = Config.maxBreakpoints := rfl
@[simp] theorem Params.default_counterWidth : Params.default.counterWidth = 64 := rfl
@[simp] theorem Params.default_tickWidth : Params.default.tickWidth = 32 := rfl
@[simp] theorem Params.default_exitCodeWidth : Params.default.exitCodeWidth = 32 := rfl
@[simp] theorem Params.default_opcodeMap : Params.default.opcodeMap = Config.opcodeMap := rfl
@[simp] theorem Params.default_syscallMap : Params.default.syscallMap = Config.syscallMap := rfl
@[simp] theorem Params.default_protP : Params.default.protP = Config.protP := rfl
@[simp] theorem Params.default_protR : Params.default.protR = Config.protR := rfl
@[simp] theorem Params.default_protW : Params.default.protW = Config.protW := rfl
@[simp] theorem Params.default_protX : Params.default.protX = Config.protX := rfl
@[simp] theorem Params.default_byteOrder : Params.default.byteOrder = Config.byteOrder := rfl
@[simp] theorem Params.default_mulVRule : Params.default.mulVRule = Config.mulVRule := rfl
@[simp] theorem Params.default_logicCVPolicy : Params.default.logicCVPolicy = Config.logicCVPolicy := rfl
@[simp] theorem Params.default_fieldLayout : Params.default.fieldLayout = {} := rfl
@[simp] theorem Params.default_layout : Params.default.layout =
    Config.layoutOf Config.protP Config.protR Config.protW Config.protX := rfl
@[simp] theorem Params.default_flagsReset : Params.default.flagsReset =
    .value { z := false, n := false, c := false, v := false } := rfl
@[simp] theorem Params.default_memReset : Params.default.memReset = .fill Config.unlistedByte := rfl
@[simp] theorem Params.default_negCVRule : Params.default.negCVRule = .asSub := rfl
@[simp] theorem Params.default_divSigned : Params.default.divSigned = false := rfl
@[simp] theorem Params.default_divFlags : Params.default.divFlags = .zn := rfl
@[simp] theorem Params.default_shrKind : Params.default.shrKind = Config.shrKind := rfl
@[simp] theorem Params.default_testRule : Params.default.testRule = .flagsOnlyAnd := rfl
@[simp] theorem Params.default_storeDataField : Params.default.storeDataField = .rd := rfl
@[simp] theorem Params.default_loadbExt : Params.default.loadbExt = Config.loadbExt := rfl
@[simp] theorem Params.default_zeroLenPolicy : Params.default.zeroLenPolicy = .succeed := rfl
@[simp] theorem Params.default_bpSkipOnce : Params.default.bpSkipOnce = false := rfl
@[simp] theorem Params.default_runStopsOnPause : Params.default.runStopsOnPause = Config.runStopsOnPause := rfl
@[simp] theorem Params.default_faultCodes : Params.default.faultCodes = {} := rfl
@[simp] theorem Params.default_statusCodes : Params.default.statusCodes = {} := rfl
@[simp] theorem Params.default_sysResults : Params.default.sysResults = {} := rfl
@[simp] theorem Params.default_readInput : Params.default.readInput = Config.hostReply := rfl
@[simp] theorem Params.default_readTerminator : Params.default.readTerminator = none := rfl
@[simp] theorem Params.default_memSize : Params.default.memSize = Config.memSize := rfl

/-- Every register an instruction can name exists by default (R67). -/
@[simp] theorem Operands.exist_default (o : Operands) : o.exist Config.nregs = true := by
  have h : ∀ r : Option RegIdx, registerExists Config.nregs r = true := by
    intro r
    cases r with
    | none => rfl
    | some r => exact decide_eq_true r.isLt
  simp only [Operands.exist, h, Bool.and_self]

/-- Decoding at the default parameters uses the spec's own map and layout (R69, D2). -/
theorem decodeWord_default (w : Word) : decodeWord w = decodeWith Config.opcodeMap w := by
  simp only [decodeWord, Params.default_opcodeMap, Params.default_fieldLayout, Params.default_nregs,
    Operands.exist_default, if_true]
  cases decodeWith Config.opcodeMap w <;> rfl

/-- Encoding at the default parameters uses the spec's own map and layout (R69, D2). -/
theorem encodeWord_default (i : Instr) : encodeWord i = i.wordOf i.mnemonic.row := rfl

/-- Every mnemonic has its row in the default map (R69, R70), and the row can carry every instruction. -/
theorem rowFor_default (m : Mnemonic) : Config.opcodeMap.rowFor m = some m.row := by cases m <;> rfl

theorem carries_default (i : Instr) : i.mnemonic.row.carries i = true := by
  cases i
  case loadi d v =>
    show (_ && (imm16InRange v || !imm16InRange v)) = true
    cases imm16InRange v <;> rfl
  all_goals rfl

/-- Four bytes or more decode as the word of the first four. -/
theorem decode_default (bs : List Byte) (h : 4 ≤ bs.length) :
    decode bs = match decodeWord (wordOfBytes (bs.take 4)) with
      | .ok i => .ok (i, bs.drop 4)
      | .error e => .error e :=
  if_neg (show ¬bs.length < 4 by omega)

/-- A value as wide as its counter stands. -/
@[simp] theorem wrapTo_self {n : Nat} (v : BitVec n) : wrapTo n v = v := by simp [wrapTo]

end Sys2Proof

namespace Sys2Proof.Machine

/-- Reset at the default parameters (R37). -/
theorem State.resetWith_default : State.resetWith Params.default = State.reset := rfl

/-- No bytes pass the check by default (D24). -/
@[simp] theorem zeroLenPasses_succeed : zeroLenPasses .succeed = true := rfl

/-- A PRINT or READ of no bytes answers 0 by default (D24). -/
@[simp] theorem zeroLenResult_succeed : zeroLenResult .succeed = 0#32 := rfl

/-- READ_TERMINATOR is none by default (D33). -/
@[simp] theorem withTerminator_none (bytes : List Byte) : withTerminator none bytes = bytes := rfl

/-- SYS_RESULTS leaves the result at hand by default (D32). -/
@[simp] theorem State.setResultOr_none (s : State) (v : Word) : s.setResultOr none v = s.setResult v := rfl

/-- A read after a write of the protection table: the entry written at its page, the old entry everywhere else. -/
theorem PageTable.entry_put (t : PageTable) (p q : Nat) (e : Prot) :
    PageTable.entry (t.put p e) q = if q = p then e else t.entry q := by
  unfold PageTable.entry PageTable.put
  by_cases hq : q = p
  · subst hq
    rw [if_pos rfl, List.getElem?_set_self (by simp; omega)]
    rfl
  · rw [if_neg hq, List.getElem?_set_ne (Ne.symm hq), List.getElem?_append]
    split
    case isTrue => rfl
    case isFalse h =>
      rw [List.getElem?_eq_none (l := t) (by omega), List.getElem?_replicate]
      split <;> rfl

/-- Writing a page's entry keeps the number of entries, where the table has the page. -/
theorem PageTable.length_put (t : PageTable) (p : Nat) (e : Prot) (h : p < t.length) :
    (t.put p e).length = t.length := by
  unfold PageTable.put
  rw [List.length_set, List.length_append, List.length_replicate]
  omega

/-- The default layout lists every page (R32). -/
@[simp] theorem PageTable.length_default : (PageTable.default).length = 256 := by
  simp only [PageTable.default, Params.default_layout, Config.layoutOf, List.flatMap_cons, List.flatMap_nil,
    List.length_append, List.length_replicate, List.length_nil]

/-! ### XLEN at its default: a register is a whole word (R12, R8) -/

@[simp] theorem wrapTo_xlen (v : Word) : wrapTo Config.xlen v = v := rfl

@[simp] theorem signedOf_xlen (v : Word) : signedOf Config.xlen v = v.toInt := if_pos (Nat.le_refl 32)

@[simp] theorem signBit_xlen (v : Word) : signBit Config.xlen v = v.msb := if_pos (Nat.le_refl 32)

@[simp] theorem isZero_xlen (v : Word) : isZero v = (v == 0#32) := rfl

/-- The signed 32-bit range (R81). -/
theorem signedOverflow_xlen (v : Int) :
    signedOverflow v = (decide (v < -2147483648) || decide (2147483647 < v)) := by
  rw [signedOverflow, show (-(2 ^ (Config.xlen - 1)) : Int) = -2147483648 by decide,
    show (2 ^ (Config.xlen - 1) - 1 : Int) = 2147483647 by decide]

/-- R84: the CARRY of MUL by default is an unsigned product that needs more than 32 bits. -/
theorem mulCarry_xlen (a b : Word) : mulCarry a b = decide (4294967296 ≤ a.toNat * b.toNat) := by
  rw [mulCarry, show 2 ^ Config.xlen = 4294967296 by decide]

/-- The immediate of an instruction that was decoded is its field, sign-extended (R65, R66). -/
theorem immediate_toInt {n : Nat} (v : BitVec n) : immediate v.toInt = sext v := rfl

@[simp] theorem State.narrow_default (s : State) : s.narrow = s := rfl

end Sys2Proof.Machine
end

