-- ==== Sys2Proof/Laws/Memory.lean ====
section
/-! SUPPORT. Memory: read after write, frames, the canonical form; the byte lists; the MMU's check byte by
byte. Later proofs cite these and unfold nothing here. -/

namespace Sys2Proof.Machine

/-! ### One byte -/

theorem Memory.read_insert (c : Host.Cell) (m : Memory) (a : Nat) (h : ∀ d ∈ m, d.1 ≠ c.1) :
    Memory.read (Memory.insert c m) a = if c.1 = a then c.2 else m.read a := by
  induction m with
  | nil => simp [Memory.insert, Memory.read]
  | cons d rest ih =>
    have hd : d.1 ≠ c.1 := h d (by simp)
    have ih := ih (fun e he => h e (by simp [he]))
    simp only [Memory.insert]
    split
    · simp [Memory.read]
    · simp only [Memory.read, ih]
      by_cases h1 : c.1 = a <;> by_cases h2 : d.1 = a <;> simp_all

theorem Memory.read_filter_ne (m : Memory) (a b : Nat) :
    Memory.read (m.filter (fun c => c.1 != a)) b = if a = b then Config.unlistedByte else m.read b := by
  induction m with
  | nil => simp [Memory.read]
  | cons d rest ih =>
    by_cases hd : d.1 = a
    · simp only [List.filter_cons, hd, bne_self_eq_false, Bool.false_eq_true, if_false, ih, Memory.read]
      by_cases hb : a = b <;> simp [hb]
    · simp only [List.filter_cons, bne_iff_ne, ne_eq, hd, not_false_eq_true, if_true, Memory.read, ih]
      by_cases h1 : d.1 = b <;> by_cases h2 : a = b <;> simp_all

/-- A read after a write: the byte written at its address, the old byte everywhere else. -/
theorem Memory.read_write (m : Memory) (a b : Nat) (v : Byte) :
    (m.write a v).read b = if a = b then v else m.read b := by
  unfold Memory.write
  split
  · rw [Memory.read_filter_ne]; simp_all
  · rw [Memory.read_insert _ _ _ (by simp), Memory.read_filter_ne]
    by_cases h : a = b <;> simp [h]

theorem Memory.mem_insert (c d : Host.Cell) (m : Memory) :
    d ∈ Memory.insert c m ↔ d = c ∨ d ∈ m := by
  induction m with
  | nil => simp [Memory.insert]
  | cons e rest ih =>
    simp only [Memory.insert]
    split
    · simp
    · simp only [List.mem_cons, ih]; tauto

theorem Memory.insert_sorted (c : Host.Cell) (m : Memory)
    (hs : m.Pairwise (fun x y => x.1 < y.1)) (hne : ∀ d ∈ m, d.1 ≠ c.1) :
    (Memory.insert c m).Pairwise (fun x y => x.1 < y.1) := by
  induction m with
  | nil => simp [Memory.insert]
  | cons d rest ih =>
    rw [List.pairwise_cons] at hs
    simp only [Memory.insert]
    split
    case isTrue hlt =>
      refine List.pairwise_cons.mpr ⟨fun e he => ?_, List.pairwise_cons.mpr hs⟩
      rcases List.mem_cons.mp he with rfl | he
      · exact hlt
      · exact hlt.trans (hs.1 e he)
    case isFalse hge =>
      have hd : d.1 ≠ c.1 := hne d (by simp)
      refine List.pairwise_cons.mpr ⟨fun e he => ?_, ih hs.2 (fun e he => hne e (by simp [he]))⟩
      rcases (Memory.mem_insert c e rest).mp he with rfl | he
      · omega
      · exact hs.1 e he

/-- Writing a byte keeps the canonical form. -/
theorem Memory.write_wf (m : Memory) (a : Nat) (v : Byte) (h : m.wf) : (m.write a v).wf := by
  have hf : Memory.wf (m.filter (fun c => c.1 != a)) :=
    ⟨h.1.sublist List.filter_sublist, fun c hc => h.2 c (List.mem_filter.mp hc).1⟩
  unfold Memory.write
  split
  · exact hf
  case isFalse hv =>
    refine ⟨Memory.insert_sorted _ _ hf.1 (fun d hd => by simpa using (List.mem_filter.mp hd).2), ?_⟩
    intro c hc
    rcases (Memory.mem_insert _ _ _).mp hc with rfl | hc
    · exact hv
    · exact hf.2 c hc

/-- Writing a byte of the address space keeps memory inside it. -/
theorem Memory.write_inBounds (m : Memory) (a : Nat) (v : Byte) (h : m.inBounds)
    (ha : a < Config.memSize) : (m.write a v).inBounds := by
  intro c hc
  unfold Memory.write at hc
  split at hc
  · exact h c (List.mem_filter.mp hc).1
  · rcases (Memory.mem_insert _ _ _).mp hc with rfl | hc
    · exact ha
    · exact h c (List.mem_filter.mp hc).1

/-! ### Runs of bytes -/

@[simp] theorem Memory.length_readBytes (m : Memory) (a n : Nat) : (m.readBytes a n).length = n := by
  induction n generalizing a with
  | zero => rfl
  | succ n ih => simp [Memory.readBytes, ih]

theorem Memory.getElem_readBytes (m : Memory) (a n k : Nat) (h : k < (m.readBytes a n).length) :
    (m.readBytes a n)[k] = m.read (a + k) := by
  induction n generalizing a k with
  | zero => simp at h
  | succ n ih =>
    cases k with
    | zero => rfl
    | succ k =>
      have h' : k < (m.readBytes (a + 1) n).length := by simpa [Memory.readBytes] using h
      simpa [Memory.readBytes, Nat.add_assoc, Nat.add_comm 1 k] using ih (a + 1) k h'

/-- Bytes read alike where memory does. -/
theorem Memory.readBytes_congr (m m' : Memory) (a n : Nat)
    (h : ∀ k < n, m.read (a + k) = m'.read (a + k)) : m.readBytes a n = m'.readBytes a n := by
  refine List.ext_getElem (by simp) (fun k h1 h2 => ?_)
  rw [Memory.getElem_readBytes, Memory.getElem_readBytes]
  exact h k (by simpa using h1)

/-- A read after a run of bytes is written. -/
theorem Memory.read_writeBytes (m : Memory) (a b : Nat) (bs : List Byte) :
    (m.writeBytes a bs).read b =
      if h : a ≤ b ∧ b < a + bs.length then bs[b - a]'(by omega) else m.read b := by
  induction bs generalizing m a with
  | nil => simp [Memory.writeBytes]
  | cons v bs ih =>
    simp only [Memory.writeBytes, ih, Memory.read_write, List.length_cons]
    by_cases h1 : a + 1 ≤ b ∧ b < a + 1 + bs.length
    · have h2 : a ≤ b ∧ b < a + (bs.length + 1) := by omega
      have h3 : b - a = b - (a + 1) + 1 := by omega
      simp [h1, h2, h3]
    · by_cases hab : a = b
      · subst hab; simp
      · have h2 : ¬(a ≤ b ∧ b < a + (bs.length + 1)) := by omega
        rw [dif_neg h1, dif_neg h2, if_neg hab]

/-- Outside the bytes written, memory reads as before. -/
theorem Memory.read_writeBytes_outside (m : Memory) (a b : Nat) (bs : List Byte)
    (h : Outside a bs.length b) : (m.writeBytes a bs).read b = m.read b := by
  rw [Memory.read_writeBytes, dif_neg]
  unfold Outside at h; omega

/-- Writing bytes keeps the canonical form. -/
theorem Memory.writeBytes_wf (m : Memory) (a : Nat) (bs : List Byte) (h : m.wf) :
    (m.writeBytes a bs).wf := by
  induction bs generalizing m a with
  | nil => exact h
  | cons v bs ih => exact ih _ _ (Memory.write_wf m a v h)

/-- Writing bytes of the address space keeps memory inside it. -/
theorem Memory.writeBytes_inBounds (m : Memory) (a : Nat) (bs : List Byte) (h : m.inBounds)
    (ha : a + bs.length ≤ Config.memSize) : (m.writeBytes a bs).inBounds := by
  induction bs generalizing m a with
  | nil => exact h
  | cons v bs ih =>
    simp only [List.length_cons] at ha
    exact ih _ _ (Memory.write_inBounds m a v h (by omega)) (by omega)

/-- The empty memory is canonical; so is the reset memory. -/
theorem Memory.nil_wf : Memory.wf [] := by simp [Memory.wf]

/-! ### Numbers and their bytes -/

@[simp] theorem length_natToBytes (n v : Nat) : (natToBytes n v).length = n := by
  induction n generalizing v with
  | zero => rfl
  | succ n ih => simp [natToBytes, ih]

@[simp] theorem length_bytesOfNat (n v : Nat) (o : ByteOrder) : (bytesOfNat n v o).length = n := by
  cases o <;> simp [bytesOfNat, ByteOrder.arrange]

theorem getElem_natToBytes (n v k : Nat) (h : k < (natToBytes n v).length) :
    (natToBytes n v)[k] = BitVec.ofNat 8 (v / 256 ^ k) := by
  induction n generalizing v k with
  | zero => simp at h
  | succ n ih =>
    cases k with
    | zero => simp [natToBytes]
    | succ k =>
      have h' : k < (natToBytes n (v / 256)).length := by simpa [natToBytes] using h
      simp only [natToBytes, List.getElem_cons_succ]
      rw [ih (v / 256) k h', Nat.div_div_eq_div_mul, Nat.pow_succ, Nat.mul_comm (256 ^ k)]

/-- Byte k of a value, the least significant first (R48). -/
theorem getElem_bytesOfNat (n v k : Nat) (h : k < (bytesOfNat n v).length) :
    (bytesOfNat n v)[k] = BitVec.ofNat 8 (v / 256 ^ k) := getElem_natToBytes n v k h

theorem bytesToNat_natToBytes (n v : Nat) : bytesToNat (natToBytes n v) = v % 256 ^ n := by
  induction n generalizing v with
  | zero => simp [natToBytes, bytesToNat, Nat.mod_one]
  | succ n ih =>
    simp only [natToBytes, bytesToNat, ih, BitVec.toNat_ofNat]
    rw [show 256 ^ (n + 1) = 256 * 256 ^ n by ring, Nat.mod_mul]

theorem readBytes_writeBytes (m : Memory) (a : Nat) (bs : List Byte) :
    (m.writeBytes a bs).readBytes a bs.length = bs := by
  refine List.ext_getElem (by simp) (fun k h1 h2 => ?_)
  rw [Memory.getElem_readBytes, Memory.read_writeBytes, dif_pos (by omega)]
  simp

/-- Memory order and back is the order at hand, in either byte order (R49). -/
@[simp] theorem ByteOrder.arrange_arrange (o : ByteOrder) (bs : List Byte) : o.arrange (o.arrange bs) = bs := by
  cases o <;> simp [ByteOrder.arrange]

/-- What is written as n bytes is read back as n bytes, cut to its n low bytes, in either byte order (R47, R48, R49). -/
theorem Memory.readNat_writeNat (m : Memory) (a n v : Nat) (o : ByteOrder) :
    (m.writeNat a n v o).readNat a n o = v % 256 ^ n := by
  have h := readBytes_writeBytes m a (bytesOfNat n v o)
  rw [length_bytesOfNat] at h
  unfold Memory.writeNat Memory.readNat
  rw [h, bytesOfNat, ByteOrder.arrange_arrange]
  exact bytesToNat_natToBytes n v

theorem Memory.readNat_congr (m m' : Memory) (a n : Nat) (o : ByteOrder)
    (h : ∀ k < n, m.read (a + k) = m'.read (a + k)) : m.readNat a n o = m'.readNat a n o := by
  unfold Memory.readNat; rw [Memory.readBytes_congr m m' a n h]

/-! ### The check, byte by byte (R41, R42), at the default parameters -/

/-- A byte is allowed, with the parameters read off. -/
theorem byteAllowed_iff (t : PageTable) (perm : Prot) (a : Nat) :
    ByteAllowed t perm a ↔
      a < Config.memSize ∧ t.entry (a / Config.pageSize) &&& (Config.protP ||| perm) = Config.protP ||| perm :=
  Iff.rfl

theorem allows_iff (t : PageTable) (perm : Prot) (p : Nat) :
    t.allows perm p = true ↔ t.entry p &&& (Config.protP ||| perm) = Config.protP ||| perm := by
  simp only [PageTable.allows, Params.default_protP, Config.protP]
  generalize t.entry p = e
  revert e perm
  decide

theorem mem_pagesOf (first last p : Nat) (h : first ≤ last) :
    p ∈ pagesOf first last ↔ first / Config.pageSize ≤ p ∧ p ≤ last / Config.pageSize := by
  have : first / Config.pageSize ≤ last / Config.pageSize := Nat.div_le_div_right h
  simp only [pagesOf, List.mem_range'_1, Params.default_pageSize]
  omega

/-- The check over pages is the check of every byte. -/
theorem pages_all_iff (t : PageTable) (perm : Prot) (a n : Nat) (hn : 0 < n)
    (hb : a + n ≤ Config.memSize) :
    (pagesOf a (a + n - 1)).all (fun p => t.allows perm p) = true ↔ RangeAllowed t perm a n := by
  rw [List.all_eq_true]
  constructor
  · intro h k hk
    refine (byteAllowed_iff _ _ _).mpr ⟨by omega, (allows_iff t perm _).mp (h _ ?_)⟩
    rw [mem_pagesOf _ _ _ (by omega)]
    exact ⟨Nat.div_le_div_right (by omega), Nat.div_le_div_right (by omega)⟩
  · intro h p hp
    rw [mem_pagesOf _ _ _ (by omega)] at hp
    rw [allows_iff]
    have hps : Config.pageSize = 256 := rfl
    rw [hps] at hp
    by_cases hlow : a ≤ p * 256
    · have h' := ((byteAllowed_iff _ _ _).mp (h (p * 256 - a) (by omega))).2
      rwa [show (a + (p * 256 - a)) / Config.pageSize = p by rw [hps]; omega] at h'
    · have h' := ((byteAllowed_iff _ _ _).mp (h 0 hn)).2
      rwa [show (a + 0) / Config.pageSize = p by rw [hps]; omega] at h'

/-- `check_access` says that every byte of the access is allowed. -/
theorem checkAccess_iff (t : PageTable) (addr : Word) (n : Nat) (perm : Prot) :
    checkAccess t addr n perm = true ↔ RangeAllowed t perm addr.toNat n := by
  have hms : Params.default.memSize = Config.memSize := rfl
  unfold checkAccess
  split
  case isTrue h => simp [RangeAllowed, h]
  case isFalse hn =>
    split
    case isTrue hb =>
      simp only [Bool.false_eq_true, false_iff]
      intro h
      have := ((byteAllowed_iff _ _ _).mp (h (n - 1) (by omega))).1
      omega
    case isFalse hb => exact pages_all_iff t perm addr.toNat n (by omega) (by omega)

/-- An allowed range lies in the address space. -/
theorem RangeAllowed.le_memSize {t : PageTable} {perm : Prot} {a n : Nat} (h : RangeAllowed t perm a n)
    (hn : 0 < n) : a + n ≤ Config.memSize := by
  have := ((byteAllowed_iff _ _ _).mp (h (n - 1) (by omega))).1
  omega

/-- The host's load needs the present bit of every byte, and nothing more (R157). -/
theorem loadAllowed_iff (t : PageTable) (addr : Word) (n : Nat) :
    loadAllowed t addr n = true ↔ RangeAllowed t permPresent addr.toNat n := by
  have hms : Params.default.memSize = Config.memSize := rfl
  unfold loadAllowed
  split
  case isTrue h => simp [RangeAllowed, h]
  case isFalse h0 =>
    split
    case isTrue h1 =>
      simp only [Bool.false_eq_true, false_iff]
      intro h
      have := h.le_memSize (by omega)
      omega
    case isFalse h1 => exact pages_all_iff t _ _ _ (by omega) (by omega)

end Sys2Proof.Machine
end

