-- ==== Sys2Proof/Laws/State.lean ====
section
/-! SUPPORT. One lemma per field per update of State, true by rfl, and the register read after each update,
so that no later proof unfolds a record update. -/

namespace Sys2Proof.Machine

/-- The size of an instruction as a 32-bit value (R59). -/
@[simp] theorem insnBytes_word : BitVec.ofNat 32 Config.insnBytes = 4#32 := rfl

variable (s : State)

/-! ### setReg -/

@[simp] theorem State.setReg_regs (r : RegIdx) (v : Word) : (s.setReg r v).regs = s.regs.set r v := rfl
@[simp] theorem State.setReg_pc (r : RegIdx) (v : Word) : (s.setReg r v).pc = s.pc := rfl
@[simp] theorem State.setReg_sp (r : RegIdx) (v : Word) : (s.setReg r v).sp = s.sp := rfl
@[simp] theorem State.setReg_fp (r : RegIdx) (v : Word) : (s.setReg r v).fp = s.fp := rfl
@[simp] theorem State.setReg_flags (r : RegIdx) (v : Word) : (s.setReg r v).flags = s.flags := rfl
@[simp] theorem State.setReg_halted (r : RegIdx) (v : Word) : (s.setReg r v).halted = s.halted := rfl
@[simp] theorem State.setReg_exitCode (r : RegIdx) (v : Word) : (s.setReg r v).exitCode = s.exitCode := rfl
@[simp] theorem State.setReg_running (r : RegIdx) (v : Word) : (s.setReg r v).running = s.running := rfl
@[simp] theorem State.setReg_mem (r : RegIdx) (v : Word) : (s.setReg r v).mem = s.mem := rfl
@[simp] theorem State.setReg_prot (r : RegIdx) (v : Word) : (s.setReg r v).prot = s.prot := rfl
@[simp] theorem State.setReg_heap (r : RegIdx) (v : Word) : (s.setReg r v).heap = s.heap := rfl
@[simp] theorem State.setReg_tick (r : RegIdx) (v : Word) : (s.setReg r v).tick = s.tick := rfl
@[simp] theorem State.setReg_dbg (r : RegIdx) (v : Word) : (s.setReg r v).dbg = s.dbg := rfl
@[simp] theorem State.setReg_output (r : RegIdx) (v : Word) : (s.setReg r v).output = s.output := rfl
@[simp] theorem State.setReg_inputs (r : RegIdx) (v : Word) : (s.setReg r v).inputs = s.inputs := rfl
@[simp] theorem State.setReg_draws (r : RegIdx) (v : Word) : (s.setReg r v).draws = s.draws := rfl
@[simp] theorem State.setReg_bpPassed (r : RegIdx) (v : Word) : (s.setReg r v).bpPassed = s.bpPassed := rfl
/-- A register read after a register write. -/
@[simp] theorem State.setReg_reg (r : RegIdx) (v : Word) (q : RegIdx) :
    (s.setReg r v).reg q = if q = r then v else s.reg q := by
  by_cases h : q = r
  · subst h; simp [State.reg, State.setReg]
  · have hne : r.val ≠ q.val := fun e => h (Fin.ext e.symm)
    simp [State.reg, State.setReg, h, hne]

/-! ### setPc -/

@[simp] theorem State.setPc_regs (v : Word) : (s.setPc v).regs = s.regs := rfl
@[simp] theorem State.setPc_pc (v : Word) : (s.setPc v).pc = v := rfl
@[simp] theorem State.setPc_sp (v : Word) : (s.setPc v).sp = s.sp := rfl
@[simp] theorem State.setPc_fp (v : Word) : (s.setPc v).fp = s.fp := rfl
@[simp] theorem State.setPc_flags (v : Word) : (s.setPc v).flags = s.flags := rfl
@[simp] theorem State.setPc_halted (v : Word) : (s.setPc v).halted = s.halted := rfl
@[simp] theorem State.setPc_exitCode (v : Word) : (s.setPc v).exitCode = s.exitCode := rfl
@[simp] theorem State.setPc_running (v : Word) : (s.setPc v).running = s.running := rfl
@[simp] theorem State.setPc_mem (v : Word) : (s.setPc v).mem = s.mem := rfl
@[simp] theorem State.setPc_prot (v : Word) : (s.setPc v).prot = s.prot := rfl
@[simp] theorem State.setPc_heap (v : Word) : (s.setPc v).heap = s.heap := rfl
@[simp] theorem State.setPc_tick (v : Word) : (s.setPc v).tick = s.tick := rfl
@[simp] theorem State.setPc_dbg (v : Word) : (s.setPc v).dbg = s.dbg := rfl
@[simp] theorem State.setPc_output (v : Word) : (s.setPc v).output = s.output := rfl
@[simp] theorem State.setPc_inputs (v : Word) : (s.setPc v).inputs = s.inputs := rfl
@[simp] theorem State.setPc_draws (v : Word) : (s.setPc v).draws = s.draws := rfl
@[simp] theorem State.setPc_bpPassed (v : Word) : (s.setPc v).bpPassed = s.bpPassed := rfl
@[simp] theorem State.setPc_reg (v : Word) (q : RegIdx) : (s.setPc v).reg q = s.reg q := rfl

/-! ### setSp -/

@[simp] theorem State.setSp_regs (v : Word) : (s.setSp v).regs = s.regs := rfl
@[simp] theorem State.setSp_pc (v : Word) : (s.setSp v).pc = s.pc := rfl
@[simp] theorem State.setSp_sp (v : Word) : (s.setSp v).sp = v := rfl
@[simp] theorem State.setSp_fp (v : Word) : (s.setSp v).fp = s.fp := rfl
@[simp] theorem State.setSp_flags (v : Word) : (s.setSp v).flags = s.flags := rfl
@[simp] theorem State.setSp_halted (v : Word) : (s.setSp v).halted = s.halted := rfl
@[simp] theorem State.setSp_exitCode (v : Word) : (s.setSp v).exitCode = s.exitCode := rfl
@[simp] theorem State.setSp_running (v : Word) : (s.setSp v).running = s.running := rfl
@[simp] theorem State.setSp_mem (v : Word) : (s.setSp v).mem = s.mem := rfl
@[simp] theorem State.setSp_prot (v : Word) : (s.setSp v).prot = s.prot := rfl
@[simp] theorem State.setSp_heap (v : Word) : (s.setSp v).heap = s.heap := rfl
@[simp] theorem State.setSp_tick (v : Word) : (s.setSp v).tick = s.tick := rfl
@[simp] theorem State.setSp_dbg (v : Word) : (s.setSp v).dbg = s.dbg := rfl
@[simp] theorem State.setSp_output (v : Word) : (s.setSp v).output = s.output := rfl
@[simp] theorem State.setSp_inputs (v : Word) : (s.setSp v).inputs = s.inputs := rfl
@[simp] theorem State.setSp_draws (v : Word) : (s.setSp v).draws = s.draws := rfl
@[simp] theorem State.setSp_bpPassed (v : Word) : (s.setSp v).bpPassed = s.bpPassed := rfl
@[simp] theorem State.setSp_reg (v : Word) (q : RegIdx) : (s.setSp v).reg q = s.reg q := rfl

/-! ### setFlags -/

@[simp] theorem State.setFlags_regs (f : Flags) : (s.setFlags f).regs = s.regs := rfl
@[simp] theorem State.setFlags_pc (f : Flags) : (s.setFlags f).pc = s.pc := rfl
@[simp] theorem State.setFlags_sp (f : Flags) : (s.setFlags f).sp = s.sp := rfl
@[simp] theorem State.setFlags_fp (f : Flags) : (s.setFlags f).fp = s.fp := rfl
@[simp] theorem State.setFlags_flags (f : Flags) : (s.setFlags f).flags = f := rfl
@[simp] theorem State.setFlags_halted (f : Flags) : (s.setFlags f).halted = s.halted := rfl
@[simp] theorem State.setFlags_exitCode (f : Flags) : (s.setFlags f).exitCode = s.exitCode := rfl
@[simp] theorem State.setFlags_running (f : Flags) : (s.setFlags f).running = s.running := rfl
@[simp] theorem State.setFlags_mem (f : Flags) : (s.setFlags f).mem = s.mem := rfl
@[simp] theorem State.setFlags_prot (f : Flags) : (s.setFlags f).prot = s.prot := rfl
@[simp] theorem State.setFlags_heap (f : Flags) : (s.setFlags f).heap = s.heap := rfl
@[simp] theorem State.setFlags_tick (f : Flags) : (s.setFlags f).tick = s.tick := rfl
@[simp] theorem State.setFlags_dbg (f : Flags) : (s.setFlags f).dbg = s.dbg := rfl
@[simp] theorem State.setFlags_output (f : Flags) : (s.setFlags f).output = s.output := rfl
@[simp] theorem State.setFlags_inputs (f : Flags) : (s.setFlags f).inputs = s.inputs := rfl
@[simp] theorem State.setFlags_draws (f : Flags) : (s.setFlags f).draws = s.draws := rfl
@[simp] theorem State.setFlags_bpPassed (f : Flags) : (s.setFlags f).bpPassed = s.bpPassed := rfl
@[simp] theorem State.setFlags_reg (f : Flags) (q : RegIdx) : (s.setFlags f).reg q = s.reg q := rfl

/-! ### setMem -/

@[simp] theorem State.setMem_regs (m : Memory) : (s.setMem m).regs = s.regs := rfl
@[simp] theorem State.setMem_pc (m : Memory) : (s.setMem m).pc = s.pc := rfl
@[simp] theorem State.setMem_sp (m : Memory) : (s.setMem m).sp = s.sp := rfl
@[simp] theorem State.setMem_fp (m : Memory) : (s.setMem m).fp = s.fp := rfl
@[simp] theorem State.setMem_flags (m : Memory) : (s.setMem m).flags = s.flags := rfl
@[simp] theorem State.setMem_halted (m : Memory) : (s.setMem m).halted = s.halted := rfl
@[simp] theorem State.setMem_exitCode (m : Memory) : (s.setMem m).exitCode = s.exitCode := rfl
@[simp] theorem State.setMem_running (m : Memory) : (s.setMem m).running = s.running := rfl
@[simp] theorem State.setMem_mem (m : Memory) : (s.setMem m).mem = m := rfl
@[simp] theorem State.setMem_prot (m : Memory) : (s.setMem m).prot = s.prot := rfl
@[simp] theorem State.setMem_heap (m : Memory) : (s.setMem m).heap = s.heap := rfl
@[simp] theorem State.setMem_tick (m : Memory) : (s.setMem m).tick = s.tick := rfl
@[simp] theorem State.setMem_dbg (m : Memory) : (s.setMem m).dbg = s.dbg := rfl
@[simp] theorem State.setMem_output (m : Memory) : (s.setMem m).output = s.output := rfl
@[simp] theorem State.setMem_inputs (m : Memory) : (s.setMem m).inputs = s.inputs := rfl
@[simp] theorem State.setMem_draws (m : Memory) : (s.setMem m).draws = s.draws := rfl
@[simp] theorem State.setMem_bpPassed (m : Memory) : (s.setMem m).bpPassed = s.bpPassed := rfl
@[simp] theorem State.setMem_reg (m : Memory) (q : RegIdx) : (s.setMem m).reg q = s.reg q := rfl

/-! ### halt -/

@[simp] theorem State.halt_regs : (s.halt).regs = s.regs := rfl
@[simp] theorem State.halt_pc : (s.halt).pc = s.pc := rfl
@[simp] theorem State.halt_sp : (s.halt).sp = s.sp := rfl
@[simp] theorem State.halt_fp : (s.halt).fp = s.fp := rfl
@[simp] theorem State.halt_flags : (s.halt).flags = s.flags := rfl
@[simp] theorem State.halt_halted : (s.halt).halted = true := rfl
@[simp] theorem State.halt_exitCode : (s.halt).exitCode = s.exitCode := rfl
@[simp] theorem State.halt_running : (s.halt).running = s.running := rfl
@[simp] theorem State.halt_mem : (s.halt).mem = s.mem := rfl
@[simp] theorem State.halt_prot : (s.halt).prot = s.prot := rfl
@[simp] theorem State.halt_heap : (s.halt).heap = s.heap := rfl
@[simp] theorem State.halt_tick : (s.halt).tick = s.tick := rfl
@[simp] theorem State.halt_dbg : (s.halt).dbg = s.dbg := rfl
@[simp] theorem State.halt_output : (s.halt).output = s.output := rfl
@[simp] theorem State.halt_inputs : (s.halt).inputs = s.inputs := rfl
@[simp] theorem State.halt_draws : (s.halt).draws = s.draws := rfl
@[simp] theorem State.halt_bpPassed : (s.halt).bpPassed = s.bpPassed := rfl
@[simp] theorem State.halt_reg (q : RegIdx) : (s.halt).reg q = s.reg q := rfl

/-! ### setExitCode -/

@[simp] theorem State.setExitCode_regs (v : Word) : (s.setExitCode v).regs = s.regs := rfl
@[simp] theorem State.setExitCode_pc (v : Word) : (s.setExitCode v).pc = s.pc := rfl
@[simp] theorem State.setExitCode_sp (v : Word) : (s.setExitCode v).sp = s.sp := rfl
@[simp] theorem State.setExitCode_fp (v : Word) : (s.setExitCode v).fp = s.fp := rfl
@[simp] theorem State.setExitCode_flags (v : Word) : (s.setExitCode v).flags = s.flags := rfl
@[simp] theorem State.setExitCode_halted (v : Word) : (s.setExitCode v).halted = s.halted := rfl
@[simp] theorem State.setExitCode_exitCode (v : Word) : (s.setExitCode v).exitCode = v := rfl
@[simp] theorem State.setExitCode_running (v : Word) : (s.setExitCode v).running = s.running := rfl
@[simp] theorem State.setExitCode_mem (v : Word) : (s.setExitCode v).mem = s.mem := rfl
@[simp] theorem State.setExitCode_prot (v : Word) : (s.setExitCode v).prot = s.prot := rfl
@[simp] theorem State.setExitCode_heap (v : Word) : (s.setExitCode v).heap = s.heap := rfl
@[simp] theorem State.setExitCode_tick (v : Word) : (s.setExitCode v).tick = s.tick := rfl
@[simp] theorem State.setExitCode_dbg (v : Word) : (s.setExitCode v).dbg = s.dbg := rfl
@[simp] theorem State.setExitCode_output (v : Word) : (s.setExitCode v).output = s.output := rfl
@[simp] theorem State.setExitCode_inputs (v : Word) : (s.setExitCode v).inputs = s.inputs := rfl
@[simp] theorem State.setExitCode_draws (v : Word) : (s.setExitCode v).draws = s.draws := rfl
@[simp] theorem State.setExitCode_bpPassed (v : Word) : (s.setExitCode v).bpPassed = s.bpPassed := rfl
@[simp] theorem State.setExitCode_reg (v : Word) (q : RegIdx) : (s.setExitCode v).reg q = s.reg q := rfl

/-! ### setRunning -/

@[simp] theorem State.setRunning_regs (b : Bool) : (s.setRunning b).regs = s.regs := rfl
@[simp] theorem State.setRunning_pc (b : Bool) : (s.setRunning b).pc = s.pc := rfl
@[simp] theorem State.setRunning_sp (b : Bool) : (s.setRunning b).sp = s.sp := rfl
@[simp] theorem State.setRunning_fp (b : Bool) : (s.setRunning b).fp = s.fp := rfl
@[simp] theorem State.setRunning_flags (b : Bool) : (s.setRunning b).flags = s.flags := rfl
@[simp] theorem State.setRunning_halted (b : Bool) : (s.setRunning b).halted = s.halted := rfl
@[simp] theorem State.setRunning_exitCode (b : Bool) : (s.setRunning b).exitCode = s.exitCode := rfl
@[simp] theorem State.setRunning_running (b : Bool) : (s.setRunning b).running = b := rfl
@[simp] theorem State.setRunning_mem (b : Bool) : (s.setRunning b).mem = s.mem := rfl
@[simp] theorem State.setRunning_prot (b : Bool) : (s.setRunning b).prot = s.prot := rfl
@[simp] theorem State.setRunning_heap (b : Bool) : (s.setRunning b).heap = s.heap := rfl
@[simp] theorem State.setRunning_tick (b : Bool) : (s.setRunning b).tick = s.tick := rfl
@[simp] theorem State.setRunning_dbg (b : Bool) : (s.setRunning b).dbg = s.dbg := rfl
@[simp] theorem State.setRunning_output (b : Bool) : (s.setRunning b).output = s.output := rfl
@[simp] theorem State.setRunning_inputs (b : Bool) : (s.setRunning b).inputs = s.inputs := rfl
@[simp] theorem State.setRunning_draws (b : Bool) : (s.setRunning b).draws = s.draws := rfl
@[simp] theorem State.setRunning_bpPassed (b : Bool) : (s.setRunning b).bpPassed = s.bpPassed := rfl
@[simp] theorem State.setRunning_reg (b : Bool) (q : RegIdx) : (s.setRunning b).reg q = s.reg q := rfl

/-! ### setProt -/

@[simp] theorem State.setProt_regs (t : PageTable) : (s.setProt t).regs = s.regs := rfl
@[simp] theorem State.setProt_pc (t : PageTable) : (s.setProt t).pc = s.pc := rfl
@[simp] theorem State.setProt_sp (t : PageTable) : (s.setProt t).sp = s.sp := rfl
@[simp] theorem State.setProt_fp (t : PageTable) : (s.setProt t).fp = s.fp := rfl
@[simp] theorem State.setProt_flags (t : PageTable) : (s.setProt t).flags = s.flags := rfl
@[simp] theorem State.setProt_halted (t : PageTable) : (s.setProt t).halted = s.halted := rfl
@[simp] theorem State.setProt_exitCode (t : PageTable) : (s.setProt t).exitCode = s.exitCode := rfl
@[simp] theorem State.setProt_running (t : PageTable) : (s.setProt t).running = s.running := rfl
@[simp] theorem State.setProt_mem (t : PageTable) : (s.setProt t).mem = s.mem := rfl
@[simp] theorem State.setProt_prot (t : PageTable) : (s.setProt t).prot = t := rfl
@[simp] theorem State.setProt_heap (t : PageTable) : (s.setProt t).heap = s.heap := rfl
@[simp] theorem State.setProt_tick (t : PageTable) : (s.setProt t).tick = s.tick := rfl
@[simp] theorem State.setProt_dbg (t : PageTable) : (s.setProt t).dbg = s.dbg := rfl
@[simp] theorem State.setProt_output (t : PageTable) : (s.setProt t).output = s.output := rfl
@[simp] theorem State.setProt_inputs (t : PageTable) : (s.setProt t).inputs = s.inputs := rfl
@[simp] theorem State.setProt_draws (t : PageTable) : (s.setProt t).draws = s.draws := rfl
@[simp] theorem State.setProt_bpPassed (t : PageTable) : (s.setProt t).bpPassed = s.bpPassed := rfl
@[simp] theorem State.setProt_reg (t : PageTable) (q : RegIdx) : (s.setProt t).reg q = s.reg q := rfl

/-! ### setHeapUsed -/

@[simp] theorem State.setHeapUsed_regs (n : Nat) : (s.setHeapUsed n).regs = s.regs := rfl
@[simp] theorem State.setHeapUsed_pc (n : Nat) : (s.setHeapUsed n).pc = s.pc := rfl
@[simp] theorem State.setHeapUsed_sp (n : Nat) : (s.setHeapUsed n).sp = s.sp := rfl
@[simp] theorem State.setHeapUsed_fp (n : Nat) : (s.setHeapUsed n).fp = s.fp := rfl
@[simp] theorem State.setHeapUsed_flags (n : Nat) : (s.setHeapUsed n).flags = s.flags := rfl
@[simp] theorem State.setHeapUsed_halted (n : Nat) : (s.setHeapUsed n).halted = s.halted := rfl
@[simp] theorem State.setHeapUsed_exitCode (n : Nat) : (s.setHeapUsed n).exitCode = s.exitCode := rfl
@[simp] theorem State.setHeapUsed_running (n : Nat) : (s.setHeapUsed n).running = s.running := rfl
@[simp] theorem State.setHeapUsed_mem (n : Nat) : (s.setHeapUsed n).mem = s.mem := rfl
@[simp] theorem State.setHeapUsed_prot (n : Nat) : (s.setHeapUsed n).prot = s.prot := rfl
@[simp] theorem State.setHeapUsed_heap (n : Nat) : (s.setHeapUsed n).heap = { s.heap with used := n } := rfl
@[simp] theorem State.setHeapUsed_tick (n : Nat) : (s.setHeapUsed n).tick = s.tick := rfl
@[simp] theorem State.setHeapUsed_dbg (n : Nat) : (s.setHeapUsed n).dbg = s.dbg := rfl
@[simp] theorem State.setHeapUsed_output (n : Nat) : (s.setHeapUsed n).output = s.output := rfl
@[simp] theorem State.setHeapUsed_inputs (n : Nat) : (s.setHeapUsed n).inputs = s.inputs := rfl
@[simp] theorem State.setHeapUsed_draws (n : Nat) : (s.setHeapUsed n).draws = s.draws := rfl
@[simp] theorem State.setHeapUsed_bpPassed (n : Nat) : (s.setHeapUsed n).bpPassed = s.bpPassed := rfl
@[simp] theorem State.setHeapUsed_reg (n : Nat) (q : RegIdx) : (s.setHeapUsed n).reg q = s.reg q := rfl

/-! ### setTick -/

@[simp] theorem State.setTick_regs (v : Word) : (s.setTick v).regs = s.regs := rfl
@[simp] theorem State.setTick_pc (v : Word) : (s.setTick v).pc = s.pc := rfl
@[simp] theorem State.setTick_sp (v : Word) : (s.setTick v).sp = s.sp := rfl
@[simp] theorem State.setTick_fp (v : Word) : (s.setTick v).fp = s.fp := rfl
@[simp] theorem State.setTick_flags (v : Word) : (s.setTick v).flags = s.flags := rfl
@[simp] theorem State.setTick_halted (v : Word) : (s.setTick v).halted = s.halted := rfl
@[simp] theorem State.setTick_exitCode (v : Word) : (s.setTick v).exitCode = s.exitCode := rfl
@[simp] theorem State.setTick_running (v : Word) : (s.setTick v).running = s.running := rfl
@[simp] theorem State.setTick_mem (v : Word) : (s.setTick v).mem = s.mem := rfl
@[simp] theorem State.setTick_prot (v : Word) : (s.setTick v).prot = s.prot := rfl
@[simp] theorem State.setTick_heap (v : Word) : (s.setTick v).heap = s.heap := rfl
@[simp] theorem State.setTick_tick (v : Word) : (s.setTick v).tick = v := rfl
@[simp] theorem State.setTick_dbg (v : Word) : (s.setTick v).dbg = s.dbg := rfl
@[simp] theorem State.setTick_output (v : Word) : (s.setTick v).output = s.output := rfl
@[simp] theorem State.setTick_inputs (v : Word) : (s.setTick v).inputs = s.inputs := rfl
@[simp] theorem State.setTick_draws (v : Word) : (s.setTick v).draws = s.draws := rfl
@[simp] theorem State.setTick_bpPassed (v : Word) : (s.setTick v).bpPassed = s.bpPassed := rfl
@[simp] theorem State.setTick_reg (v : Word) (q : RegIdx) : (s.setTick v).reg q = s.reg q := rfl

/-! ### setDbg -/

@[simp] theorem State.setDbg_regs (d : Debugger) : (s.setDbg d).regs = s.regs := rfl
@[simp] theorem State.setDbg_pc (d : Debugger) : (s.setDbg d).pc = s.pc := rfl
@[simp] theorem State.setDbg_sp (d : Debugger) : (s.setDbg d).sp = s.sp := rfl
@[simp] theorem State.setDbg_fp (d : Debugger) : (s.setDbg d).fp = s.fp := rfl
@[simp] theorem State.setDbg_flags (d : Debugger) : (s.setDbg d).flags = s.flags := rfl
@[simp] theorem State.setDbg_halted (d : Debugger) : (s.setDbg d).halted = s.halted := rfl
@[simp] theorem State.setDbg_exitCode (d : Debugger) : (s.setDbg d).exitCode = s.exitCode := rfl
@[simp] theorem State.setDbg_running (d : Debugger) : (s.setDbg d).running = s.running := rfl
@[simp] theorem State.setDbg_mem (d : Debugger) : (s.setDbg d).mem = s.mem := rfl
@[simp] theorem State.setDbg_prot (d : Debugger) : (s.setDbg d).prot = s.prot := rfl
@[simp] theorem State.setDbg_heap (d : Debugger) : (s.setDbg d).heap = s.heap := rfl
@[simp] theorem State.setDbg_tick (d : Debugger) : (s.setDbg d).tick = s.tick := rfl
@[simp] theorem State.setDbg_dbg (d : Debugger) : (s.setDbg d).dbg = d := rfl
@[simp] theorem State.setDbg_output (d : Debugger) : (s.setDbg d).output = s.output := rfl
@[simp] theorem State.setDbg_inputs (d : Debugger) : (s.setDbg d).inputs = s.inputs := rfl
@[simp] theorem State.setDbg_draws (d : Debugger) : (s.setDbg d).draws = s.draws := rfl
@[simp] theorem State.setDbg_bpPassed (d : Debugger) : (s.setDbg d).bpPassed = s.bpPassed := rfl
@[simp] theorem State.setDbg_reg (d : Debugger) (q : RegIdx) : (s.setDbg d).reg q = s.reg q := rfl

/-! ### addTick -/

@[simp] theorem State.addTick_regs (n : Word) (P : Params) : (s.addTick n P).regs = s.regs := rfl
@[simp] theorem State.addTick_pc (n : Word) (P : Params) : (s.addTick n P).pc = s.pc := rfl
@[simp] theorem State.addTick_sp (n : Word) (P : Params) : (s.addTick n P).sp = s.sp := rfl
@[simp] theorem State.addTick_fp (n : Word) (P : Params) : (s.addTick n P).fp = s.fp := rfl
@[simp] theorem State.addTick_flags (n : Word) (P : Params) : (s.addTick n P).flags = s.flags := rfl
@[simp] theorem State.addTick_halted (n : Word) (P : Params) : (s.addTick n P).halted = s.halted := rfl
@[simp] theorem State.addTick_exitCode (n : Word) (P : Params) : (s.addTick n P).exitCode = s.exitCode := rfl
@[simp] theorem State.addTick_running (n : Word) (P : Params) : (s.addTick n P).running = s.running := rfl
@[simp] theorem State.addTick_mem (n : Word) (P : Params) : (s.addTick n P).mem = s.mem := rfl
@[simp] theorem State.addTick_prot (n : Word) (P : Params) : (s.addTick n P).prot = s.prot := rfl
@[simp] theorem State.addTick_heap (n : Word) (P : Params) : (s.addTick n P).heap = s.heap := rfl
@[simp] theorem State.addTick_tick (n : Word) : (s.addTick n).tick = s.tick + n := rfl
@[simp] theorem State.addTick_dbg (n : Word) (P : Params) : (s.addTick n P).dbg = s.dbg := rfl
@[simp] theorem State.addTick_output (n : Word) (P : Params) : (s.addTick n P).output = s.output := rfl
@[simp] theorem State.addTick_inputs (n : Word) (P : Params) : (s.addTick n P).inputs = s.inputs := rfl
@[simp] theorem State.addTick_draws (n : Word) (P : Params) : (s.addTick n P).draws = s.draws := rfl
@[simp] theorem State.addTick_bpPassed (n : Word) (P : Params) : (s.addTick n P).bpPassed = s.bpPassed := rfl
@[simp] theorem State.addTick_reg (n : Word) (P : Params) (q : RegIdx) : (s.addTick n P).reg q = s.reg q := rfl

/-! ### addCycles -/

@[simp] theorem State.addCycles_regs (n : Count) (P : Params) : (s.addCycles n P).regs = s.regs := rfl
@[simp] theorem State.addCycles_pc (n : Count) (P : Params) : (s.addCycles n P).pc = s.pc := rfl
@[simp] theorem State.addCycles_sp (n : Count) (P : Params) : (s.addCycles n P).sp = s.sp := rfl
@[simp] theorem State.addCycles_fp (n : Count) (P : Params) : (s.addCycles n P).fp = s.fp := rfl
@[simp] theorem State.addCycles_flags (n : Count) (P : Params) : (s.addCycles n P).flags = s.flags := rfl
@[simp] theorem State.addCycles_halted (n : Count) (P : Params) : (s.addCycles n P).halted = s.halted := rfl
@[simp] theorem State.addCycles_exitCode (n : Count) (P : Params) : (s.addCycles n P).exitCode = s.exitCode := rfl
@[simp] theorem State.addCycles_running (n : Count) (P : Params) : (s.addCycles n P).running = s.running := rfl
@[simp] theorem State.addCycles_mem (n : Count) (P : Params) : (s.addCycles n P).mem = s.mem := rfl
@[simp] theorem State.addCycles_prot (n : Count) (P : Params) : (s.addCycles n P).prot = s.prot := rfl
@[simp] theorem State.addCycles_heap (n : Count) (P : Params) : (s.addCycles n P).heap = s.heap := rfl
@[simp] theorem State.addCycles_tick (n : Count) (P : Params) : (s.addCycles n P).tick = s.tick := rfl
@[simp] theorem State.addCycles_dbg (n : Count) : (s.addCycles n).dbg = { s.dbg with cycles := s.dbg.cycles + n } := rfl
@[simp] theorem State.addCycles_output (n : Count) (P : Params) : (s.addCycles n P).output = s.output := rfl
@[simp] theorem State.addCycles_inputs (n : Count) (P : Params) : (s.addCycles n P).inputs = s.inputs := rfl
@[simp] theorem State.addCycles_draws (n : Count) (P : Params) : (s.addCycles n P).draws = s.draws := rfl
@[simp] theorem State.addCycles_bpPassed (n : Count) (P : Params) : (s.addCycles n P).bpPassed = s.bpPassed := rfl
@[simp] theorem State.addCycles_reg (n : Count) (P : Params) (q : RegIdx) : (s.addCycles n P).reg q = s.reg q := rfl

/-! ### emit -/

@[simp] theorem State.emit_regs (bs : List Byte) : (s.emit bs).regs = s.regs := rfl
@[simp] theorem State.emit_pc (bs : List Byte) : (s.emit bs).pc = s.pc := rfl
@[simp] theorem State.emit_sp (bs : List Byte) : (s.emit bs).sp = s.sp := rfl
@[simp] theorem State.emit_fp (bs : List Byte) : (s.emit bs).fp = s.fp := rfl
@[simp] theorem State.emit_flags (bs : List Byte) : (s.emit bs).flags = s.flags := rfl
@[simp] theorem State.emit_halted (bs : List Byte) : (s.emit bs).halted = s.halted := rfl
@[simp] theorem State.emit_exitCode (bs : List Byte) : (s.emit bs).exitCode = s.exitCode := rfl
@[simp] theorem State.emit_running (bs : List Byte) : (s.emit bs).running = s.running := rfl
@[simp] theorem State.emit_mem (bs : List Byte) : (s.emit bs).mem = s.mem := rfl
@[simp] theorem State.emit_prot (bs : List Byte) : (s.emit bs).prot = s.prot := rfl
@[simp] theorem State.emit_heap (bs : List Byte) : (s.emit bs).heap = s.heap := rfl
@[simp] theorem State.emit_tick (bs : List Byte) : (s.emit bs).tick = s.tick := rfl
@[simp] theorem State.emit_dbg (bs : List Byte) : (s.emit bs).dbg = s.dbg := rfl
@[simp] theorem State.emit_output (bs : List Byte) : (s.emit bs).output = s.output ++ [bs] := rfl
@[simp] theorem State.emit_inputs (bs : List Byte) : (s.emit bs).inputs = s.inputs := rfl
@[simp] theorem State.emit_draws (bs : List Byte) : (s.emit bs).draws = s.draws := rfl
@[simp] theorem State.emit_bpPassed (bs : List Byte) : (s.emit bs).bpPassed = s.bpPassed := rfl
@[simp] theorem State.emit_reg (bs : List Byte) (q : RegIdx) : (s.emit bs).reg q = s.reg q := rfl

/-! ### advance -/

@[simp] theorem State.advance_regs : (s.advance).regs = s.regs := rfl
@[simp] theorem State.advance_pc : (s.advance).pc = s.pc + 4#32 := rfl
@[simp] theorem State.advance_sp : (s.advance).sp = s.sp := rfl
@[simp] theorem State.advance_fp : (s.advance).fp = s.fp := rfl
@[simp] theorem State.advance_flags : (s.advance).flags = s.flags := rfl
@[simp] theorem State.advance_halted : (s.advance).halted = s.halted := rfl
@[simp] theorem State.advance_exitCode : (s.advance).exitCode = s.exitCode := rfl
@[simp] theorem State.advance_running : (s.advance).running = s.running := rfl
@[simp] theorem State.advance_mem : (s.advance).mem = s.mem := rfl
@[simp] theorem State.advance_prot : (s.advance).prot = s.prot := rfl
@[simp] theorem State.advance_heap : (s.advance).heap = s.heap := rfl
@[simp] theorem State.advance_tick : (s.advance).tick = s.tick := rfl
@[simp] theorem State.advance_dbg : (s.advance).dbg = s.dbg := rfl
@[simp] theorem State.advance_output : (s.advance).output = s.output := rfl
@[simp] theorem State.advance_inputs : (s.advance).inputs = s.inputs := rfl
@[simp] theorem State.advance_draws : (s.advance).draws = s.draws := rfl
@[simp] theorem State.advance_bpPassed : (s.advance).bpPassed = s.bpPassed := rfl
@[simp] theorem State.advance_reg (q : RegIdx) : (s.advance).reg q = s.reg q := rfl

/-! ### retire -/

@[simp] theorem State.retire_regs (P : Params) : (s.retire P).regs = s.regs := rfl
@[simp] theorem State.retire_pc (P : Params) : (s.retire P).pc = s.pc := rfl
@[simp] theorem State.retire_sp (P : Params) : (s.retire P).sp = s.sp := rfl
@[simp] theorem State.retire_fp (P : Params) : (s.retire P).fp = s.fp := rfl
@[simp] theorem State.retire_flags (P : Params) : (s.retire P).flags = s.flags := rfl
@[simp] theorem State.retire_halted (P : Params) : (s.retire P).halted = s.halted := rfl
@[simp] theorem State.retire_exitCode (P : Params) : (s.retire P).exitCode = s.exitCode := rfl
@[simp] theorem State.retire_running (P : Params) : (s.retire P).running = s.running := rfl
@[simp] theorem State.retire_mem (P : Params) : (s.retire P).mem = s.mem := rfl
@[simp] theorem State.retire_prot (P : Params) : (s.retire P).prot = s.prot := rfl
@[simp] theorem State.retire_heap (P : Params) : (s.retire P).heap = s.heap := rfl
@[simp] theorem State.retire_tick (P : Params) : (s.retire P).tick = s.tick := rfl
@[simp] theorem State.retire_dbg : (s.retire).dbg = { s.dbg with instructions := s.dbg.instructions + 1#64, cycles := s.dbg.cycles + 1#64 } := rfl
@[simp] theorem State.retire_output (P : Params) : (s.retire P).output = s.output := rfl
@[simp] theorem State.retire_inputs (P : Params) : (s.retire P).inputs = s.inputs := rfl
@[simp] theorem State.retire_draws (P : Params) : (s.retire P).draws = s.draws := rfl
@[simp] theorem State.retire_bpPassed (P : Params) : (s.retire P).bpPassed = s.bpPassed := rfl
@[simp] theorem State.retire_reg (P : Params) (q : RegIdx) : (s.retire P).reg q = s.reg q := rfl

/-! ### finish: retire at the default parameters -/

@[simp] theorem State.finish_regs : (s.finish).regs = s.regs := rfl
@[simp] theorem State.finish_pc : (s.finish).pc = s.pc := rfl
@[simp] theorem State.finish_sp : (s.finish).sp = s.sp := rfl
@[simp] theorem State.finish_fp : (s.finish).fp = s.fp := rfl
@[simp] theorem State.finish_flags : (s.finish).flags = s.flags := rfl
@[simp] theorem State.finish_halted : (s.finish).halted = s.halted := rfl
@[simp] theorem State.finish_exitCode : (s.finish).exitCode = s.exitCode := rfl
@[simp] theorem State.finish_running : (s.finish).running = s.running := rfl
@[simp] theorem State.finish_mem : (s.finish).mem = s.mem := rfl
@[simp] theorem State.finish_prot : (s.finish).prot = s.prot := rfl
@[simp] theorem State.finish_heap : (s.finish).heap = s.heap := rfl
@[simp] theorem State.finish_tick : (s.finish).tick = s.tick := rfl
@[simp] theorem State.finish_dbg : (s.finish).dbg = { s.dbg with instructions := s.dbg.instructions + 1#64, cycles := s.dbg.cycles + 1#64 } := rfl
@[simp] theorem State.finish_output : (s.finish).output = s.output := rfl
@[simp] theorem State.finish_inputs : (s.finish).inputs = s.inputs := rfl
@[simp] theorem State.finish_draws : (s.finish).draws = s.draws := rfl
@[simp] theorem State.finish_bpPassed : (s.finish).bpPassed = s.bpPassed := rfl
@[simp] theorem State.finish_reg (q : RegIdx) : (s.finish).reg q = s.reg q := rfl

/-! ### consumeReply -/

@[simp] theorem State.consumeReply_regs : s.consumeReply.regs = s.regs := by
  unfold State.consumeReply; split <;> rfl
@[simp] theorem State.consumeReply_pc : s.consumeReply.pc = s.pc := by
  unfold State.consumeReply; split <;> rfl
@[simp] theorem State.consumeReply_sp : s.consumeReply.sp = s.sp := by
  unfold State.consumeReply; split <;> rfl
@[simp] theorem State.consumeReply_fp : s.consumeReply.fp = s.fp := by
  unfold State.consumeReply; split <;> rfl
@[simp] theorem State.consumeReply_flags : s.consumeReply.flags = s.flags := by
  unfold State.consumeReply; split <;> rfl
@[simp] theorem State.consumeReply_halted : s.consumeReply.halted = s.halted := by
  unfold State.consumeReply; split <;> rfl
@[simp] theorem State.consumeReply_exitCode : s.consumeReply.exitCode = s.exitCode := by
  unfold State.consumeReply; split <;> rfl
@[simp] theorem State.consumeReply_running : s.consumeReply.running = s.running := by
  unfold State.consumeReply; split <;> rfl
@[simp] theorem State.consumeReply_mem : s.consumeReply.mem = s.mem := by
  unfold State.consumeReply; split <;> rfl
@[simp] theorem State.consumeReply_prot : s.consumeReply.prot = s.prot := by
  unfold State.consumeReply; split <;> rfl
@[simp] theorem State.consumeReply_heap : s.consumeReply.heap = s.heap := by
  unfold State.consumeReply; split <;> rfl
@[simp] theorem State.consumeReply_tick : s.consumeReply.tick = s.tick := by
  unfold State.consumeReply; split <;> rfl
@[simp] theorem State.consumeReply_dbg : s.consumeReply.dbg = s.dbg := by
  unfold State.consumeReply; split <;> rfl
@[simp] theorem State.consumeReply_output : s.consumeReply.output = s.output := by
  unfold State.consumeReply; split <;> rfl
@[simp] theorem State.consumeReply_bpPassed : s.consumeReply.bpPassed = s.bpPassed := by
  unfold State.consumeReply; split <;> rfl
@[simp] theorem State.consumeReply_reg (q : RegIdx) : s.consumeReply.reg q = s.reg q := by
  unfold State.consumeReply; split <;> rfl

end Sys2Proof.Machine
end

