-- ==== Sys2Proof/Laws/Ops.lean ====
section
/-! SUPPORT. What each shared operation can do, said once: guarded operations, loads and stores byte by byte,
the fetch, the services of SYSCALL, the step. -/

namespace Sys2Proof.Machine

/-! ### Completion and faults -/

theorem guarded_next_iff (ok : Bool) (f : Fault) (t u : State) :
    guarded ok f t = .next u ↔ ok = true ∧ u = t := by
  unfold guarded raise
  split <;> simp_all [eq_comm]

theorem guarded_fault_iff (ok : Bool) (f g : Fault) (t : State) :
    guarded ok f t = .fault g ↔ ok = false ∧ g = f := by
  unfold guarded raise
  split <;> simp_all [eq_comm]

/-- A guarded operation never refuses. -/
theorem guarded_ne_refused (ok : Bool) (f : Fault) (t : State) (r : Refusal) :
    guarded ok f t ≠ .refused r := by
  unfold guarded raise
  split <;> simp

theorem guarded_pos {ok : Bool} (f : Fault) (t : State) (h : ok = true) : guarded ok f t = .next t := by
  simp [guarded, h]

theorem guarded_neg {ok : Bool} (f : Fault) (t : State) (h : ¬ok = true) : guarded ok f t = .fault f := by
  simp [guarded, raise, h]

/-! ### Loads and stores (R47, R48) -/

theorem canRead_iff (s : State) (addr : Word) (n : Nat) :
    s.canRead addr n = true ↔ RangeAllowed s.prot permRead addr.toNat n := checkAccess_iff _ _ _ _

theorem canWrite_iff (s : State) (addr : Word) (n : Nat) :
    s.canWrite addr n = true ↔ RangeAllowed s.prot permWrite addr.toNat n := checkAccess_iff _ _ _ _

theorem canFetch_iff (s : State) :
    s.canFetch = true ↔ RangeAllowed s.prot permFetch s.pc.toNat 4 := checkAccess_iff _ _ _ _

/-- A stored word's byte k is bits 8k+7..8k of the value; every other byte stands (R48). -/
theorem read_storeWord (s : State) (addr v : Word) (a : Nat) :
    (s.storeWord addr v).mem.read a =
      if addr.toNat ≤ a ∧ a < addr.toNat + 4 then BitVec.ofNat 8 (v.toNat / 256 ^ (a - addr.toNat))
      else s.mem.read a := by
  simp only [State.storeWord, State.setMem_mem, Memory.writeNat, Memory.read_writeBytes,
    length_bytesOfNat, Params.default_byteOrder]
  split
  · rw [getElem_bytesOfNat]
  · rfl

/-- A stored byte is the value's low byte; every other byte stands (R101). -/
theorem read_storeByte (s : State) (addr v : Word) (a : Nat) :
    (s.storeByte addr v).mem.read a = if a = addr.toNat then v.setWidth 8 else s.mem.read a := by
  simp only [State.storeByte, State.setMem_mem, Memory.writeNat, Memory.read_writeBytes,
    length_bytesOfNat, Params.default_byteOrder]
  by_cases h : a = addr.toNat
  · subst h
    rw [dif_pos (by omega), if_pos rfl, getElem_bytesOfNat]
    apply BitVec.eq_of_toNat_eq
    simp [BitVec.toNat_and, Nat.and_two_pow_sub_one_eq_mod v.toNat 8]
  · rw [dif_neg (by omega), if_neg h]

/-- The word at an address from its four bytes (R47). -/
theorem toNat_loadWord (s : State) (addr : Word) :
    (s.loadWord addr).toNat =
      (s.mem.read addr.toNat).toNat + 256 * (s.mem.read (addr.toNat + 1)).toNat
        + 65536 * (s.mem.read (addr.toNat + 2)).toNat
        + 16777216 * (s.mem.read (addr.toNat + 3)).toNat := by
  have h0 := (s.mem.read addr.toNat).isLt
  have h1 := (s.mem.read (addr.toNat + 1)).isLt
  have h2 := (s.mem.read (addr.toNat + 2)).isLt
  have h3 := (s.mem.read (addr.toNat + 3)).isLt
  simp only [State.loadWord, Memory.readNat, Memory.readBytes, Params.default_byteOrder, Config.byteOrder, ByteOrder.arrange,
    bytesToNat, BitVec.toNat_ofNat, Nat.add_assoc]
  norm_num
  omega

/-- The byte at an address (R47). -/
theorem loadByte_eq (s : State) (addr : Word) : s.loadByte addr = s.mem.read addr.toNat := by
  apply BitVec.eq_of_toNat_eq
  simp [State.loadByte, Memory.readNat, Memory.readBytes, Config.byteOrder,
    ByteOrder.arrange, bytesToNat]

/-- A word stored and read back at one address (R49). -/
theorem loadWord_storeWord (s : State) (addr v : Word) : (s.storeWord addr v).loadWord addr = v := by
  apply BitVec.eq_of_toNat_eq
  simp only [State.loadWord, State.storeWord, State.setMem_mem, Params.default_byteOrder, Memory.readNat_writeNat,
    BitVec.toNat_ofNat]
  have := v.isLt
  omega

@[simp] theorem State.storeWord_reg (s : State) (addr v : Word) (r : RegIdx) :
    (s.storeWord addr v).reg r = s.reg r := rfl

@[simp] theorem State.storeByte_reg (s : State) (addr v : Word) (r : RegIdx) :
    (s.storeByte addr v).reg r = s.reg r := rfl

@[simp] theorem State.storeWord_prot (s : State) (addr v : Word) : (s.storeWord addr v).prot = s.prot := rfl

@[simp] theorem State.storeByte_prot (s : State) (addr v : Word) : (s.storeByte addr v).prot = s.prot := rfl

/-! ### The services of SYSCALL (R122) -/

/-- Every row of the default map names r1 and r2 as its argument registers (R123). -/
theorem serviceRow_args {n : Word} {row : SyscallRow} (h : serviceRow Config.syscallMap n = some row) :
    row.args = {} := by
  have all : ∀ row ∈ Config.syscallMap, row.args = {} := by decide
  exact all row (List.mem_of_find?_eq_some h)

/-- The dispatcher at the default map, by the service alone (R121, R123). -/
theorem dispatchSyscall_default (s : State) :
    dispatchSyscall Config.syscallMap s =
      match (serviceRow Config.syscallMap (s.reg 0)).map (·.service) with
      | some v => runService v s
      | none => sysUnknown s := by
  unfold dispatchSyscall
  cases h : serviceRow Config.syscallMap (s.reg 0) with
  | none => rfl
  | some row =>
    show runService row.service s Params.default row.args = runService row.service s
    rw [serviceRow_args h]

/-- What every service leaves alone: registers other than r0, and this much of the rest. -/
structure ServiceFrame (s t : State) : Prop where
  regs : SameRegsBut [0] s t
  pc : t.pc = s.pc
  sp : t.sp = s.sp
  fp : t.fp = s.fp
  flags : t.flags = s.flags
  running : t.running = s.running
  prot : t.prot = s.prot
  heapBase : t.heap.base = s.heap.base
  heapSize : t.heap.size = s.heap.size
  dbgEnabled : t.dbg.enabled = s.dbg.enabled
  dbgSingleStep : t.dbg.singleStep = s.dbg.singleStep
  dbgBreakpoints : t.dbg.breakpoints = s.dbg.breakpoints
  dbgInstructions : t.dbg.instructions = s.dbg.instructions

theorem serviceFrame_setResult {s t : State} (h : ServiceFrame s t) (v : Word) :
    ServiceFrame s (t.setResult v) := by
  obtain ⟨h1, h2, h3, h4, h5, h6, h7, h8, h9, h10, h11, h12, h13⟩ := h
  refine ⟨fun r hr => ?_, h2, h3, h4, h5, h6, h7, h8, h9, h10, h11, h12, h13⟩
  have : r ≠ 0 := by simpa using hr
  simp only [State.setResult, State.setReg_reg, this, if_false]
  exact h1 r hr

theorem serviceFrame_refl (s : State) : ServiceFrame s s :=
  ⟨fun _ _ => rfl, rfl, rfl, rfl, rfl, rfl, rfl, rfl, rfl, rfl, rfl, rfl, rfl⟩

/-- Every syscall keeps r1..r15, the flags, SP and everything else ServiceFrame names (R122). -/
theorem dispatchSyscall_frame (map : SyscallMap) (s : State) :
    ServiceFrame s (dispatchSyscall map s) := by
  have easy (t : State) (h : ServiceFrame s t) := fun v => serviceFrame_setResult h v
  have refl := serviceFrame_refl s
  unfold dispatchSyscall
  split
  case h_2 => exact easy s refl _
  case h_1 row _ =>
    obtain ⟨_, v, A⟩ := row
    cases v <;> simp only [runService]
    case exit => exact ⟨fun _ _ => rfl, rfl, rfl, rfl, rfl, rfl, rfl, rfl, rfl, rfl, rfl, rfl, rfl⟩
    case print =>
      unfold sysPrint
      split
      · exact easy s refl _
      · split
        · exact serviceFrame_setResult (s := s) (t := s.emit _) ⟨fun _ _ => rfl, rfl, rfl, rfl, rfl, rfl, rfl, rfl, rfl, rfl, rfl, rfl, rfl⟩ _
        · exact easy s refl _
    case read =>
      unfold sysRead
      split
      · exact easy s refl _
      · split
        · refine easy _ ⟨fun r _ => ?_, ?_, ?_, ?_, ?_, ?_, ?_, ?_, ?_, ?_, ?_, ?_, ?_⟩ _ <;> simp
        · exact easy s refl _
    case getTime => exact easy s refl _
    case sleep =>
      exact serviceFrame_setResult (s := s)
        (t := (s.setTick (s.tick + s.reg A.first)).addCycles ((s.reg A.first).setWidth 64))
        ⟨fun _ _ => rfl, rfl, rfl, rfl, rfl, rfl, rfl, rfl, rfl, rfl, rfl, rfl, rfl⟩ _
    case alloc =>
      exact serviceFrame_setResult (s := s)
        (t := s.setHeapUsed (s.heap.alloc (s.reg A.first).toNat).2.used)
        ⟨fun _ _ => rfl, rfl, rfl, rfl, rfl, rfl, rfl, rfl, rfl, rfl, rfl, rfl, rfl⟩ _
    case free => exact easy s refl _
    all_goals exact easy s refl _

/-! ### Which instructions fault, and with what (R140) -/

/-- The one check an instruction makes, as `guarded` sees it: the check, the fault and the state it leads to. -/
theorem execWith_is_guarded (i : Instr) (s : State) (P : Params) : ∃ ok f t, execWith i s P = guarded ok f t := by
  cases i with
  | div rd rs1 rs2 => exact ⟨_, _, _, rfl⟩
  | mod rd rs1 rs2 => exact ⟨_, _, _, rfl⟩
  | load rd rs1 rs2 => exact ⟨_, _, _, rfl⟩
  | store rd rs1 rs2 => exact ⟨_, _, _, rfl⟩
  | loadb rd rs1 rs2 => exact ⟨_, _, _, rfl⟩
  | storeb rd rs1 rs2 => exact ⟨_, _, _, rfl⟩
  | call target => exact ⟨_, _, _, rfl⟩
  | ret => exact ⟨_, _, _, rfl⟩
  | _ => exact ⟨true, .divZero 0, _, rfl⟩

/-- No instruction is refused, whatever the parameters. -/
theorem execWith_ne_refused (i : Instr) (s : State) (P : Params) (r : Refusal) : execWith i s P ≠ .refused r := by
  obtain ⟨ok, f, t, h⟩ := execWith_is_guarded i s P
  rw [h]
  exact guarded_ne_refused ok f t r

/-- The dispatch at the default parameters is `exec`. -/
@[simp] theorem execWith_default (i : Instr) (s : State) : execWith i s Params.default = exec i s := by
  cases i <;> rfl

/-- No instruction is refused: every arm of exec has its meaning. -/
theorem exec_ne_refused (i : Instr) (s : State) (r : Refusal) : exec i s ≠ .refused r :=
  execWith_default i s ▸ execWith_ne_refused i s Params.default r

/-! ### The step (R137) -/

/-- By default a pause at a breakpoint changes nothing (R149, D29). -/
@[simp] theorem State.pausedAtBreakpoint_default (s : State) : s.pausedAtBreakpoint = s := rfl

/-- By default the end of an instruction is its count (R138). -/
@[simp] theorem State.finish_default (s : State) : s.finish = s.retire := rfl

/-- By default the debugger pauses at every arrival (R149, D29). -/
theorem State.atBreakpoint_default (s : State) :
    s.atBreakpoint = (s.dbg.enabled && s.dbg.breakpoints.contains s.pc) := by
  simp [State.atBreakpoint]

/-- Everything a step can do, under any parameters: nothing (halted, or at a breakpoint), a fault with no effect, or
one decoded instruction and its count. -/
theorem engineStep_casesWith (s : State) (P : Params) :
    (s.halted = true ∧ engineStep s P = (.halted, s)) ∨
    (s.halted = false ∧ s.atBreakpoint P = true ∧ engineStep s P = (.paused, s.pausedAtBreakpoint P)) ∨
    (∃ f, engineStep s P = (.error f, s)) ∨
    (∃ i t, s.halted = false ∧ s.atBreakpoint P = false ∧ s.canFetch P = true ∧ execWith i s P = .next t ∧
      engineStep s P = ((t.finish P).statusAfter, t.finish P)) := by
  unfold engineStep
  split
  case isTrue h => exact .inl ⟨h, rfl⟩
  case isFalse hh =>
    split
    case isTrue h => exact .inr (.inl ⟨by simpa using hh, h, rfl⟩)
    case isFalse hb =>
      split
      case isFalse => exact .inr (.inr (.inl ⟨_, rfl⟩))
      case isTrue hc =>
        split
        case h_2 => exact .inr (.inr (.inl ⟨_, rfl⟩))
        case h_1 i _ _ =>
          unfold executeDecoded
          split
          case h_1 t ht =>
            exact .inr (.inr (.inr ⟨i, t, by simpa using hh, by simpa using hb, hc, ht, rfl⟩))
          case h_2 => exact .inr (.inr (.inl ⟨_, rfl⟩))
          case h_3 r hr => exact absurd hr (execWith_ne_refused i s P r)

/-- Everything a step can do at the default parameters. -/
theorem engineStep_cases (s : State) :
    (s.halted = true ∧ engineStep s = (.halted, s)) ∨
    (s.halted = false ∧ s.atBreakpoint = true ∧ engineStep s = (.paused, s)) ∨
    (∃ f, engineStep s = (.error f, s)) ∨
    (∃ i t, s.halted = false ∧ s.atBreakpoint = false ∧ s.canFetch = true ∧ exec i s = .next t ∧
      engineStep s = (t.retire.statusAfter, t.retire)) := by
  simpa using engineStep_casesWith s Params.default

theorem statusAfter_ne_error (s : State) (f : Fault) : s.statusAfter ≠ .error f := by
  unfold State.statusAfter; split <;> [simp; (split <;> simp)]

theorem statusAfter_ne_unmodelled (s : State) (r : Refusal) : s.statusAfter ≠ .unmodelled r := by
  unfold State.statusAfter; split <;> [simp; (split <;> simp)]

/-- A step's next state is the engine's; a step that answers next is halted, paused or a completed
instruction. -/
theorem step_next (s t : State) (h : step s = .next t) : t = (engineStep s).2 := by
  unfold step outcomeOf at h
  split at h <;> simp_all

/-! ### Placing an instruction for the next step -/

/-- A page prepared for fetching allows the fetch. -/
theorem allowFetch_allows (t : PageTable) (p q : Nat)
    (h : q = p ∨ t.allows permFetch q = true) : (t.allowFetch p).allows permFetch q = true := by
  rw [allows_iff] at *
  unfold PageTable.allowFetch
  rw [PageTable.entry_put]
  rcases h with rfl | h
  · rw [if_pos rfl]
    generalize PageTable.entry t q = e
    revert e; decide
  · split
    case isTrue hq =>
      subst hq
      generalize PageTable.entry t q = e
      revert e; decide
    case isFalse => exact h

end Sys2Proof.Machine
end

