-- ==== Sys2Proof/Laws/Exec.lean ====
section
/-! SUPPORT. One equation per instruction: what exec answers, in terms of the shared operations, with the parameters
at their defaults. Proofs rewrite with these and unfold no meaning. -/

namespace Sys2Proof.Machine

@[simp] theorem exec_add (rd rs1 rs2 : RegIdx) (s : State) :
    exec (.add rd rs1 rs2) s =
      .next ((s.setReg rd (s.reg rs1 + s.reg rs2)).setFlags
        (flagsAdd (s.reg rs1) (s.reg rs2))).advance := rfl

@[simp] theorem exec_sub (rd rs1 rs2 : RegIdx) (s : State) :
    exec (.sub rd rs1 rs2) s =
      .next ((s.setReg rd (s.reg rs1 - s.reg rs2)).setFlags
        (flagsSub (s.reg rs1) (s.reg rs2))).advance := rfl

@[simp] theorem exec_mul (rd rs1 rs2 : RegIdx) (s : State) :
    exec (.mul rd rs1 rs2) s =
      .next ((s.setReg rd (s.reg rs1 * s.reg rs2)).setFlags
        (flagsMul .signedProduct s.flags (s.reg rs1) (s.reg rs2))).advance := rfl

@[simp] theorem exec_neg (rd rs1 : RegIdx) (s : State) :
    exec (.neg rd rs1) s =
      .next ((s.setReg rd (0#32 - s.reg rs1)).setFlags
        (flagsSub 0#32 (s.reg rs1))).advance := rfl

@[simp] theorem exec_div (rd rs1 rs2 : RegIdx) (s : State) :
    exec (.div rd rs1 rs2) s =
      guarded (s.reg rs2 != 0#32) (.divZero s.pc)
        ((s.setReg rd (s.reg rs1 / s.reg rs2)).setFlags
          (flagsZN s.flags (s.reg rs1 / s.reg rs2))).advance := rfl

@[simp] theorem exec_mod (rd rs1 rs2 : RegIdx) (s : State) :
    exec (.mod rd rs1 rs2) s =
      guarded (s.reg rs2 != 0#32) (.divZero s.pc)
        ((s.setReg rd (s.reg rs1 % s.reg rs2)).setFlags
          (flagsZN s.flags (s.reg rs1 % s.reg rs2))).advance := rfl

@[simp] theorem exec_and (rd rs1 rs2 : RegIdx) (s : State) :
    exec (.and rd rs1 rs2) s =
      .next ((s.setReg rd (s.reg rs1 &&& s.reg rs2)).setFlags
        (flagsZN s.flags (s.reg rs1 &&& s.reg rs2))).advance := rfl

@[simp] theorem exec_or (rd rs1 rs2 : RegIdx) (s : State) :
    exec (.or rd rs1 rs2) s =
      .next ((s.setReg rd (s.reg rs1 ||| s.reg rs2)).setFlags
        (flagsZN s.flags (s.reg rs1 ||| s.reg rs2))).advance := rfl

@[simp] theorem exec_xor (rd rs1 rs2 : RegIdx) (s : State) :
    exec (.xor rd rs1 rs2) s =
      .next ((s.setReg rd (s.reg rs1 ^^^ s.reg rs2)).setFlags
        (flagsZN s.flags (s.reg rs1 ^^^ s.reg rs2))).advance := rfl

@[simp] theorem exec_not (rd rs1 : RegIdx) (s : State) :
    exec (.not rd rs1) s =
      .next ((s.setReg rd (~~~ s.reg rs1)).setFlags
        (flagsZN s.flags (~~~ s.reg rs1))).advance := rfl

@[simp] theorem exec_shl (rd rs1 rs2 : RegIdx) (s : State) :
    exec (.shl rd rs1 rs2) s =
      .next ((s.setReg rd (s.reg rs1 <<< shiftAmount (s.reg rs2))).setFlags
        (flagsZN s.flags (s.reg rs1 <<< shiftAmount (s.reg rs2)))).advance := rfl

@[simp] theorem exec_shr (rd rs1 rs2 : RegIdx) (s : State) :
    exec (.shr rd rs1 rs2) s =
      .next ((s.setReg rd (s.reg rs1 >>> shiftAmount (s.reg rs2))).setFlags
        (flagsZN s.flags (s.reg rs1 >>> shiftAmount (s.reg rs2)))).advance := rfl

@[simp] theorem exec_load (rd rs1 rs2 : RegIdx) (s : State) :
    exec (.load rd rs1 rs2) s =
      guarded (s.canRead (s.ea rs1 rs2) 4) (.loadFault (s.ea rs1 rs2))
        (s.setReg rd (s.loadWord (s.ea rs1 rs2))).advance := rfl

@[simp] theorem exec_store (rd rs1 rs2 : RegIdx) (s : State) :
    exec (.store rd rs1 rs2) s =
      guarded (s.canWrite (s.ea rs1 rs2) 4) (.storeFault (s.ea rs1 rs2))
        (s.storeWord (s.ea rs1 rs2) (s.reg rd)).advance := rfl

@[simp] theorem exec_loadb (rd rs1 rs2 : RegIdx) (s : State) :
    exec (.loadb rd rs1 rs2) s =
      guarded (s.canRead (s.ea rs1 rs2) 1) (.loadFault (s.ea rs1 rs2))
        (s.setReg rd ((s.loadByte (s.ea rs1 rs2)).setWidth 32)).advance := rfl

@[simp] theorem exec_storeb (rd rs1 rs2 : RegIdx) (s : State) :
    exec (.storeb rd rs1 rs2) s =
      guarded (s.canWrite (s.ea rs1 rs2) 1) (.storeFault (s.ea rs1 rs2))
        (s.storeByte (s.ea rs1 rs2) (s.reg rd)).advance := rfl

@[simp] theorem exec_loadi (rd : RegIdx) (imm : Int) (s : State) :
    exec (.loadi rd imm) s =
      .next (s.setReg rd (immediate imm)).advance := rfl

@[simp] theorem exec_move (rd rs1 : RegIdx) (s : State) :
    exec (.move rd rs1) s =
      .next (s.setReg rd (s.reg rs1)).advance := rfl

@[simp] theorem exec_cmp (rs1 rs2 : RegIdx) (s : State) :
    exec (.cmp rs1 rs2) s =
      .next (s.setFlags (flagsSub (s.reg rs1) (s.reg rs2))).advance := rfl

@[simp] theorem exec_test (rs1 rs2 : RegIdx) (s : State) :
    exec (.test rs1 rs2) s =
      .next (s.setFlags (flagsZN s.flags (s.reg rs1 &&& s.reg rs2))).advance := rfl

@[simp] theorem exec_slt (rd rs1 rs2 : RegIdx) (s : State) :
    exec (.slt rd rs1 rs2) s =
      .next (s.setReg rd (boolWord (decide ((s.reg rs1).toInt < (s.reg rs2).toInt)))).advance := by
  rw [← signedOf_xlen (s.reg rs1), ← signedOf_xlen (s.reg rs2)]
  rfl

@[simp] theorem exec_sle (rd rs1 rs2 : RegIdx) (s : State) :
    exec (.sle rd rs1 rs2) s =
      .next (s.setReg rd (boolWord (decide ((s.reg rs1).toInt ≤ (s.reg rs2).toInt)))).advance := by
  rw [← signedOf_xlen (s.reg rs1), ← signedOf_xlen (s.reg rs2)]
  rfl

@[simp] theorem exec_seq (rd rs1 rs2 : RegIdx) (s : State) :
    exec (.seq rd rs1 rs2) s =
      .next (s.setReg rd (boolWord (s.reg rs1 == s.reg rs2))).advance := rfl

@[simp] theorem exec_sne (rd rs1 rs2 : RegIdx) (s : State) :
    exec (.sne rd rs1 rs2) s =
      .next (s.setReg rd (boolWord (s.reg rs1 != s.reg rs2))).advance := rfl

@[simp] theorem exec_jmp (target : Int) (s : State) :
    exec (.jmp target) s =
      .next (s.setPc (immediate target)) := rfl

@[simp] theorem exec_jz (target : Int) (s : State) :
    exec (.jz target) s =
      .next (if s.flags.z then s.setPc (immediate target) else s.advance) := rfl

@[simp] theorem exec_jnz (target : Int) (s : State) :
    exec (.jnz target) s =
      .next (if !s.flags.z then s.setPc (immediate target) else s.advance) := rfl

@[simp] theorem exec_jc (target : Int) (s : State) :
    exec (.jc target) s =
      .next (if s.flags.c then s.setPc (immediate target) else s.advance) := rfl

@[simp] theorem exec_jnc (target : Int) (s : State) :
    exec (.jnc target) s =
      .next (if !s.flags.c then s.setPc (immediate target) else s.advance) := rfl

@[simp] theorem exec_call (target : Int) (s : State) :
    exec (.call target) s =
      guarded (s.canWrite (s.sp - 4#32) 4) (.storeFault (s.sp - 4#32))
        (((s.storeWord (s.sp - 4#32) (s.pc + 4#32)).setSp (s.sp - 4#32)).setPc (immediate target)) := rfl

@[simp] theorem exec_ret (s : State) :
    exec .ret s =
      guarded (s.canRead s.sp 4) (.loadFault s.sp)
        ((s.setPc (s.loadWord s.sp)).setSp (s.sp + 4#32)) := rfl

@[simp] theorem exec_syscall (s : State) :
    exec .syscall s =
      .next (dispatchSyscall Config.syscallMap s).advance := rfl

@[simp] theorem exec_halt (s : State) :
    exec .halt s =
      .next s.halt.advance := rfl

end Sys2Proof.Machine
end

