-- ==== Sys2Proof/Laws/HostCommands.lean ====
section
/-! SUPPORT. What each host command's operation answers at the default parameters, one equation per case of its
arguments, so that no later proof unfolds an operation of the host (60_exceptions.md section 7). -/

namespace Sys2Proof.Machine

variable (s : State)

/-! ### Registers and the protection table (R158, R160) -/

theorem State.hostGetReg_valid {i : Nat} (h : i < 16) : s.hostGetReg i = some (s.reg ⟨i, h⟩) := dif_pos ⟨h, h⟩

theorem State.hostGetReg_invalid {i : Nat} (h : 16 ≤ i) : s.hostGetReg i = none :=
  dif_neg (fun hi => absurd hi.1 (by omega))

theorem State.hostSetReg_valid {i : Nat} (h : i < 16) (v : Word) :
    s.hostSetReg i v = (true, s.setReg ⟨i, h⟩ v) := dif_pos ⟨h, h⟩

theorem State.hostSetReg_invalid {i : Nat} (h : 16 ≤ i) (v : Word) : s.hostSetReg i v = (false, s) :=
  dif_neg (fun hi => absurd hi.1 (by omega))

theorem State.hostGetProt_valid {p : Nat} (h : p < 256) : s.hostGetProt p = some (s.prot.entry p) := if_pos h

theorem State.hostGetProt_invalid {p : Nat} (h : 256 ≤ p) : s.hostGetProt p = none :=
  if_neg (show ¬p < 256 by omega)

theorem State.hostSetProt_valid {p : Nat} (h : p < 256) (bits : Nat) :
    s.hostSetProt p bits = (true, s.setProt (s.prot.put p (BitVec.ofNat 4 bits))) := if_pos h

theorem State.hostSetProt_invalid {p : Nat} (h : 256 ≤ p) (bits : Nat) : s.hostSetProt p bits = (false, s) :=
  if_neg (show ¬p < 256 by omega)

/-! ### Memory (R157, R159) -/

theorem State.loadBytes_valid {bytes : List Byte} {addr : Word}
    (h : RangeAllowed s.prot permPresent addr.toNat bytes.length) :
    s.loadBytes bytes addr = (true, s.setMem (s.mem.writeBytes addr.toNat bytes)) :=
  if_pos ((loadAllowed_iff _ _ _).mpr h)

theorem State.loadBytes_invalid {bytes : List Byte} {addr : Word}
    (h : ¬RangeAllowed s.prot permPresent addr.toNat bytes.length) : s.loadBytes bytes addr = (false, s) :=
  if_neg (mt (loadAllowed_iff _ _ _).mp h)

theorem State.hostReadMem_valid {addr : Word} {n : Nat} (h : RangeAllowed s.prot permRead addr.toNat n) :
    s.hostReadMem addr n = some (s.mem.readBytes addr.toNat n) := if_pos ((canRead_iff _ _ _).mpr h)

theorem State.hostReadMem_invalid {addr : Word} {n : Nat} (h : ¬RangeAllowed s.prot permRead addr.toNat n) :
    s.hostReadMem addr n = none := if_neg (mt (canRead_iff _ _ _).mp h)

theorem State.hostWriteMem_valid {addr : Word} {bytes : List Byte}
    (h : RangeAllowed s.prot permWrite addr.toNat bytes.length) :
    s.hostWriteMem addr bytes = (true, s.setMem (s.mem.writeBytes addr.toNat bytes)) :=
  if_pos ((canWrite_iff _ _ _).mpr h)

theorem State.hostWriteMem_invalid {addr : Word} {bytes : List Byte}
    (h : ¬RangeAllowed s.prot permWrite addr.toNat bytes.length) : s.hostWriteMem addr bytes = (false, s) :=
  if_neg (mt (canWrite_iff _ _ _).mp h)

/-! ### The debugger and the timer (R150, R162) -/

theorem State.addBreakpoint_present {a : Word} (h : a ∈ s.dbg.breakpoints) : s.addBreakpoint a = (true, s) :=
  if_pos (by simpa using h)

theorem State.addBreakpoint_full {a : Word} (h : a ∉ s.dbg.breakpoints) (hf : 16 ≤ s.dbg.breakpoints.length) :
    s.addBreakpoint a = (false, s) :=
  (if_neg (by simpa using h)).trans (if_pos hf)

theorem State.addBreakpoint_new {a : Word} (h : a ∉ s.dbg.breakpoints) (hf : s.dbg.breakpoints.length < 16) :
    s.addBreakpoint a = (true, s.setDbg { s.dbg with breakpoints := s.dbg.breakpoints ++ [a] }) :=
  (if_neg (by simpa using h)).trans (if_neg (show ¬16 ≤ s.dbg.breakpoints.length by omega))

theorem State.removeBreakpoint_present {a : Word} (h : a ∈ s.dbg.breakpoints) :
    s.removeBreakpoint a =
      (true, s.setDbg { s.dbg with breakpoints := s.dbg.breakpoints.filter (fun b => b != a) }) :=
  if_pos (by simpa using h)

theorem State.removeBreakpoint_absent {a : Word} (h : a ∉ s.dbg.breakpoints) : s.removeBreakpoint a = (false, s) :=
  if_neg (by simpa using h)

@[simp] theorem State.hostAdvanceTick_default (n : Nat) :
    s.hostAdvanceTick n = s.setTick (s.tick + BitVec.ofNat 32 n) := by
  simp [State.hostAdvanceTick, State.addTick]

end Sys2Proof.Machine
end

