-- ==== Sys2Proof/Laws/PerInstr.lean ====
section
/-! SUPPORT. One lemma per instruction of the family OpcodePlaced: the word an instruction encodes to carries its
opcode number in bits 31..24 and 0 in every bit the instruction does not use (30_encoding.md R60 to R64, R75). -/

namespace Sys2Proof.Laws.OpcodePlaced

open Sys2Proof.Machine (usedBits)

/-- The encoder puts the opcode in its field and leaves the unused bits 0. -/
def Statement (i : Instr) : Prop :=
  (decodeFields (encodeWord i)).opcode = i.mnemonic.opcode ∧
    encodeWord i &&& usedBits i.mnemonic = encodeWord i

/-! ### The three formats (R75) -/

theorem encodeR_opcode (op rd rs1 rs2 : Nat) :
    (decodeFields (encodeR op rd rs1 rs2)).opcode = BitVec.ofNat 8 op := by
  simp only [decodeFields, encodeR]
  generalize BitVec.ofNat 8 op = o, BitVec.ofNat 4 rd = a, BitVec.ofNat 4 rs1 = b, BitVec.ofNat 4 rs2 = c
  ext k hk
  interval_cases k <;> simp

theorem encodeI_opcode (op rd : Nat) (imm : Int) :
    (decodeFields (encodeI op rd imm)).opcode = BitVec.ofNat 8 op := by
  simp only [decodeFields, encodeI]
  generalize BitVec.ofNat 8 op = o, BitVec.ofNat 4 rd = a, BitVec.ofInt 16 imm = b
  ext k hk
  interval_cases k <;> simp

theorem encodeJ_opcode (op : Nat) (imm : Int) :
    (decodeFields (encodeJ op imm)).opcode = BitVec.ofNat 8 op := by
  simp only [decodeFields, encodeJ]
  generalize BitVec.ofNat 8 op = o, BitVec.ofInt 24 imm = b
  ext k hk
  interval_cases k <;> simp

theorem encodeR_used (op rd rs1 rs2 : Nat) :
    encodeR op rd rs1 rs2 &&& 0xFF0FFF00#32 = encodeR op rd rs1 rs2 := by
  simp only [encodeR]
  generalize BitVec.ofNat 8 op = o, BitVec.ofNat 4 rd = a, BitVec.ofNat 4 rs1 = b, BitVec.ofNat 4 rs2 = c
  ext k hk
  interval_cases k <;> simp

theorem encodeR_noRs2 (op rd rs1 : Nat) :
    encodeR op rd rs1 0 = ((BitVec.ofNat 8 op).setWidth 32 <<< 24)
      ||| ((BitVec.ofNat 4 rd).setWidth 32 <<< 16)
      ||| ((BitVec.ofNat 4 rs1).setWidth 32 <<< 12) := by
  simp [encodeR]

theorem encodeR_noRd (op rs1 rs2 : Nat) :
    encodeR op 0 rs1 rs2 = ((BitVec.ofNat 8 op).setWidth 32 <<< 24)
      ||| ((BitVec.ofNat 4 rs1).setWidth 32 <<< 12)
      ||| ((BitVec.ofNat 4 rs2).setWidth 32 <<< 8) := by
  simp [encodeR]

theorem encodeR_bare (op : Nat) :
    encodeR op 0 0 0 = (BitVec.ofNat 8 op).setWidth 32 <<< 24 := by
  simp [encodeR]

theorem encodeR_used_noRs2 (op rd rs1 : Nat) :
    encodeR op rd rs1 0 &&& 0xFF0FF000#32 = encodeR op rd rs1 0 := by
  simp only [encodeR_noRs2]
  generalize BitVec.ofNat 8 op = o, BitVec.ofNat 4 rd = a, BitVec.ofNat 4 rs1 = b
  ext k hk
  interval_cases k <;> simp

theorem encodeR_used_noRd (op rs1 rs2 : Nat) :
    encodeR op 0 rs1 rs2 &&& 0xFF00FF00#32 = encodeR op 0 rs1 rs2 := by
  simp only [encodeR_noRd]
  generalize BitVec.ofNat 8 op = o, BitVec.ofNat 4 rs1 = b, BitVec.ofNat 4 rs2 = c
  ext k hk
  interval_cases k <;> simp

theorem encodeR_used_none (op : Nat) : encodeR op 0 0 0 &&& 0xFF000000#32 = encodeR op 0 0 0 := by
  simp only [encodeR_bare]
  generalize BitVec.ofNat 8 op = o
  ext k hk
  interval_cases k <;> simp

theorem encodeI_used (op rd : Nat) (imm : Int) :
    encodeI op rd imm &&& 0xFF0FFFFF#32 = encodeI op rd imm := by
  simp only [encodeI]
  generalize BitVec.ofNat 8 op = o, BitVec.ofNat 4 rd = a, BitVec.ofInt 16 imm = b
  ext k hk
  interval_cases k <;> simp

theorem encodeJ_used (op : Nat) (imm : Int) : encodeJ op imm &&& 0xFFFFFFFF#32 = encodeJ op imm := by
  ext k hk
  interval_cases k <;> simp

/-! ### One lemma per instruction -/

theorem add (rd rs1 rs2 : RegIdx) : Statement (.add rd rs1 rs2) :=
  ⟨encodeR_opcode _ _ _ _, encodeR_used _ _ _ _⟩

theorem sub (rd rs1 rs2 : RegIdx) : Statement (.sub rd rs1 rs2) :=
  ⟨encodeR_opcode _ _ _ _, encodeR_used _ _ _ _⟩

theorem mul (rd rs1 rs2 : RegIdx) : Statement (.mul rd rs1 rs2) :=
  ⟨encodeR_opcode _ _ _ _, encodeR_used _ _ _ _⟩

theorem neg (rd rs1 : RegIdx) : Statement (.neg rd rs1) :=
  ⟨encodeR_opcode _ _ _ _, encodeR_used_noRs2 _ _ _⟩

theorem div (rd rs1 rs2 : RegIdx) : Statement (.div rd rs1 rs2) :=
  ⟨encodeR_opcode _ _ _ _, encodeR_used _ _ _ _⟩

theorem mod (rd rs1 rs2 : RegIdx) : Statement (.mod rd rs1 rs2) :=
  ⟨encodeR_opcode _ _ _ _, encodeR_used _ _ _ _⟩

theorem and (rd rs1 rs2 : RegIdx) : Statement (.and rd rs1 rs2) :=
  ⟨encodeR_opcode _ _ _ _, encodeR_used _ _ _ _⟩

theorem or (rd rs1 rs2 : RegIdx) : Statement (.or rd rs1 rs2) :=
  ⟨encodeR_opcode _ _ _ _, encodeR_used _ _ _ _⟩

theorem xor (rd rs1 rs2 : RegIdx) : Statement (.xor rd rs1 rs2) :=
  ⟨encodeR_opcode _ _ _ _, encodeR_used _ _ _ _⟩

theorem not (rd rs1 : RegIdx) : Statement (.not rd rs1) :=
  ⟨encodeR_opcode _ _ _ _, encodeR_used_noRs2 _ _ _⟩

theorem shl (rd rs1 rs2 : RegIdx) : Statement (.shl rd rs1 rs2) :=
  ⟨encodeR_opcode _ _ _ _, encodeR_used _ _ _ _⟩

theorem shr (rd rs1 rs2 : RegIdx) : Statement (.shr rd rs1 rs2) :=
  ⟨encodeR_opcode _ _ _ _, encodeR_used _ _ _ _⟩

theorem load (rd rs1 rs2 : RegIdx) : Statement (.load rd rs1 rs2) :=
  ⟨encodeR_opcode _ _ _ _, encodeR_used _ _ _ _⟩

theorem store (rd rs1 rs2 : RegIdx) : Statement (.store rd rs1 rs2) :=
  ⟨encodeR_opcode _ _ _ _, encodeR_used _ _ _ _⟩

theorem loadb (rd rs1 rs2 : RegIdx) : Statement (.loadb rd rs1 rs2) :=
  ⟨encodeR_opcode _ _ _ _, encodeR_used _ _ _ _⟩

theorem storeb (rd rs1 rs2 : RegIdx) : Statement (.storeb rd rs1 rs2) :=
  ⟨encodeR_opcode _ _ _ _, encodeR_used _ _ _ _⟩

theorem loadi (rd : RegIdx) (imm : Int) : Statement (.loadi rd imm) :=
  ⟨encodeI_opcode _ _ _, encodeI_used _ _ _⟩

theorem move (rd rs1 : RegIdx) : Statement (.move rd rs1) :=
  ⟨encodeR_opcode _ _ _ _, encodeR_used_noRs2 _ _ _⟩

theorem cmp (rs1 rs2 : RegIdx) : Statement (.cmp rs1 rs2) :=
  ⟨encodeR_opcode _ _ _ _, encodeR_used_noRd _ _ _⟩

theorem test (rs1 rs2 : RegIdx) : Statement (.test rs1 rs2) :=
  ⟨encodeR_opcode _ _ _ _, encodeR_used_noRd _ _ _⟩

theorem slt (rd rs1 rs2 : RegIdx) : Statement (.slt rd rs1 rs2) :=
  ⟨encodeR_opcode _ _ _ _, encodeR_used _ _ _ _⟩

theorem sle (rd rs1 rs2 : RegIdx) : Statement (.sle rd rs1 rs2) :=
  ⟨encodeR_opcode _ _ _ _, encodeR_used _ _ _ _⟩

theorem seq (rd rs1 rs2 : RegIdx) : Statement (.seq rd rs1 rs2) :=
  ⟨encodeR_opcode _ _ _ _, encodeR_used _ _ _ _⟩

theorem sne (rd rs1 rs2 : RegIdx) : Statement (.sne rd rs1 rs2) :=
  ⟨encodeR_opcode _ _ _ _, encodeR_used _ _ _ _⟩

theorem jmp (target : Int) : Statement (.jmp target) :=
  ⟨encodeJ_opcode _ _, encodeJ_used _ _⟩

theorem jz (target : Int) : Statement (.jz target) :=
  ⟨encodeJ_opcode _ _, encodeJ_used _ _⟩

theorem jnz (target : Int) : Statement (.jnz target) :=
  ⟨encodeJ_opcode _ _, encodeJ_used _ _⟩

theorem jc (target : Int) : Statement (.jc target) :=
  ⟨encodeJ_opcode _ _, encodeJ_used _ _⟩

theorem jnc (target : Int) : Statement (.jnc target) :=
  ⟨encodeJ_opcode _ _, encodeJ_used _ _⟩

theorem call (target : Int) : Statement (.call target) :=
  ⟨encodeJ_opcode _ _, encodeJ_used _ _⟩

theorem ret : Statement .ret :=
  ⟨encodeR_opcode _ _ _ _, encodeR_used_none _⟩

theorem syscall : Statement .syscall :=
  ⟨encodeR_opcode _ _ _ _, encodeR_used_none _⟩

theorem halt : Statement .halt :=
  ⟨encodeR_opcode _ _ _ _, encodeR_used_none _⟩

end Sys2Proof.Laws.OpcodePlaced
end

