-- ==== Sys2Proof/Laws/Step.lean ====
section
/-! SUPPORT. State.withFetchWord does what the host asks of it: the very next step decodes the placed word. -/

namespace Sys2Proof.Machine

/-- A word laid out in memory order is the word read back. -/
theorem wordOfBytes_bytesOfNat (w : Word) : wordOfBytes (bytesOfNat 4 w.toNat) = w := by
  apply BitVec.eq_of_toNat_eq
  have h : bytesToNat (natToBytes 4 w.toNat) = w.toNat % 256 ^ 4 := bytesToNat_natToBytes 4 w.toNat
  have := w.isLt
  simp only [wordOfBytes, bytesOfNat, Config.byteOrder, ByteOrder.arrange, h, BitVec.toNat_ofNat]
  omega

/-- Four bytes decode as the word they make. -/
theorem decode_of_length (bs : List Byte) (h : bs.length = 4) :
    decode bs = match decodeWord (wordOfBytes bs) with
      | .ok i => .ok (i, [])
      | .error e => .error e := by
  match bs, h with
  | [_, _, _, _], _ => rfl

/-- Where every page of a word may be fetched from, so may the word. -/
theorem canFetch_of_pages (t : PageTable) (pc : Word) (hb : pc.toNat + 4 ≤ Config.memSize)
    (h0 : t.allows permFetch (pc.toNat / 256) = true) (h3 : t.allows permFetch ((pc.toNat + 3) / 256) = true) :
    checkAccess t pc 4 permFetch = true := by
  rw [checkAccess_iff]
  intro k hk
  refine (byteAllowed_iff _ _ _).mpr ⟨by omega, (allows_iff t _ _).mp ?_⟩
  have hps : Config.pageSize = 256 := rfl
  rcases (by omega : (pc.toNat + k) / 256 = pc.toNat / 256 ∨ (pc.toNat + k) / 256 = (pc.toNat + 3) / 256)
    with e | e
  · rw [hps, e]; exact h0
  · rw [hps, e]; exact h3

theorem fitPc_fits (s : State) :
    s.fitPc.pc.toNat + 4 ≤ Config.memSize ∧ s.fitPc.halted = s.halted := by
  unfold State.fitPc
  split
  case isTrue h => exact ⟨h, rfl⟩
  case isFalse => exact ⟨by rw [State.setPc_pc]; decide, rfl⟩

theorem passBreakpoint_passes (s : State) :
    s.passBreakpoint.atBreakpoint = false ∧ s.passBreakpoint.pc = s.pc ∧
      s.passBreakpoint.halted = s.halted := by
  unfold State.passBreakpoint
  split
  case isTrue => exact ⟨rfl, rfl, rfl⟩
  case isFalse h => exact ⟨by simpa using h, rfl, rfl⟩

theorem openPages_opens (s : State) (hb : s.pc.toNat + 4 ≤ Config.memSize) :
    s.openPages.canFetch = true ∧ s.openPages.atBreakpoint = s.atBreakpoint ∧
      s.openPages.halted = s.halted := by
  unfold State.openPages
  split
  case isTrue h => exact ⟨h, rfl, rfl⟩
  case isFalse =>
    refine ⟨canFetch_of_pages _ s.pc hb ?_ ?_, rfl, rfl⟩
    · exact allowFetch_allows _ _ _ (.inr (allowFetch_allows _ _ _ (.inl rfl)))
    · exact allowFetch_allows _ _ _ (.inl rfl)

/-- A state made ready gets to the fetch, and may fetch. -/
theorem readyToFetch_ready (s : State) :
    s.readyToFetch.halted = false ∧ s.readyToFetch.atBreakpoint = false ∧ s.readyToFetch.canFetch = true := by
  obtain ⟨h1, h2⟩ := fitPc_fits { s with halted := false }
  obtain ⟨h3, h4, h5⟩ := passBreakpoint_passes ({ s with halted := false } : State).fitPc
  obtain ⟨h6, h7, h8⟩ := openPages_opens _ (h4 ▸ h1)
  exact ⟨h8.trans (h5.trans h2), h7.trans h3, h6⟩

/-- The step after withFetchWord decodes exactly the placed word and runs what it is. -/
theorem engineStep_withFetchWord (s : State) (nbits w : Nat) :
    engineStep (s.withFetchWord nbits w) = match decodeWord (tableWord nbits w) with
      | .ok i => executeDecoded i (s.withFetchWord nbits w)
      | .error _ => (.error (.invalidOpcode (s.withFetchWord nbits w).pc), s.withFetchWord nbits w) := by
  obtain ⟨h1, h2, h3⟩ := readyToFetch_ready s
  have hbytes : (s.withFetchWord nbits w).fetchBytes = bytesOfNat 4 (tableWord nbits w).toNat :=
    readBytes_writeBytes s.readyToFetch.mem s.readyToFetch.pc.toNat _
  unfold engineStep
  rw [show (s.withFetchWord nbits w).halted = false from h1,
    show (s.withFetchWord nbits w).atBreakpoint = false from h2,
    show (s.withFetchWord nbits w).canFetch = true from h3, hbytes,
    decode_of_length _ (length_bytesOfNat _ _ _), wordOfBytes_bytesOfNat]
  simp only [Bool.false_eq_true, if_false, if_true]
  cases decodeWord (tableWord nbits w) <;> rfl

end Sys2Proof.Machine
end

