-- ==== Sys2Proof/Tests/Slice0.lean ====
section
/-! SUPPORT. Small checks of the model's own work, and a witness for the hypotheses of every obligation. Every
expected value is copied from spec/95_test_vectors.md (the row is named), or follows by hand from the rule named. -/

open Sys2Proof Sys2Proof.Machine Sys2Proof.Machine.Claims

namespace Sys2Proof.Tests

/-! ### Helpers -/

/-- The reset state with some registers set. -/
def withRegs (rs : List (RegIdx × Word)) : State :=
  rs.foldl (fun s e => s.setReg e.1 e.2) State.reset

/-- Flags in the order Z, N, C, V. -/
def zncv (z n c v : Bool) : Flags := { z := z, n := n, c := c, v := v }

/-- What an instruction's next state shows. -/
def after {α : Type} (i : Instr) (s : State) (f : State → α) : Option α :=
  match exec i s with
  | .next t => some (f t)
  | .fault _ => none
  | .refused _ => none

/-- The fault an instruction raises. -/
def faultOf (i : Instr) (s : State) : Option Fault :=
  match exec i s with
  | .next _ => none
  | .fault f => some f
  | .refused _ => none

/-- A register, the flags and the pc. -/
def regFlagsPc (r : RegIdx) (t : State) : Word × Flags × Word := (t.reg r, t.flags, t.pc)

/-- The memory of section 2.4: the word 0x12345678 at 0x4000 and the byte 0xFE at 0x4010. -/
def dataMem : Memory := [(0x4000, 0x78#8), (0x4001, 0x56#8), (0x4002, 0x34#8), (0x4003, 0x12#8), (0x4010, 0xFE#8)]

/-- The state of a control-transfer row: pc = 0x10 and the flags. -/
def atTen (f : Flags) : State := (State.reset.setPc 0x10#32).setFlags f

/-! ### Well-formedness: each check refuses an ill-formed term (30_encoding.md R65, R66, R76) -/

theorem test_wf_loadi : (Instr.loadi 1 32767).wellFormed = true ∧ (Instr.loadi 1 (-32768)).wellFormed = true ∧
    (Instr.loadi 1 32768).wellFormed = false ∧ (Instr.loadi 1 (-32769)).wellFormed = false := by decide

theorem test_wf_jmp : (Instr.jmp 8388607).wellFormed = true ∧ (Instr.jmp (-8388608)).wellFormed = true ∧
    (Instr.jmp 8388608).wellFormed = false ∧ (Instr.jmp (-8388609)).wellFormed = false := by decide

theorem test_wf_jz : (Instr.jz 8388607).wellFormed = true ∧ (Instr.jz (-8388608)).wellFormed = true ∧
    (Instr.jz 8388608).wellFormed = false ∧ (Instr.jz (-8388609)).wellFormed = false := by decide

theorem test_wf_jnz : (Instr.jnz 8388607).wellFormed = true ∧ (Instr.jnz (-8388608)).wellFormed = true ∧
    (Instr.jnz 8388608).wellFormed = false ∧ (Instr.jnz (-8388609)).wellFormed = false := by decide

theorem test_wf_jc : (Instr.jc 8388607).wellFormed = true ∧ (Instr.jc (-8388608)).wellFormed = true ∧
    (Instr.jc 8388608).wellFormed = false ∧ (Instr.jc (-8388609)).wellFormed = false := by decide

theorem test_wf_jnc : (Instr.jnc 8388607).wellFormed = true ∧ (Instr.jnc (-8388608)).wellFormed = true ∧
    (Instr.jnc 8388608).wellFormed = false ∧ (Instr.jnc (-8388609)).wellFormed = false := by decide

theorem test_wf_call : (Instr.call 8388607).wellFormed = true ∧ (Instr.call (-8388608)).wellFormed = true ∧
    (Instr.call 8388608).wellFormed = false ∧ (Instr.call (-8388609)).wellFormed = false := by decide

/-! ### Decoding: one word for every constructor, written out from the fields of R61 to R63 and the numbers of R69
(opcode, 4 ignored bits, rd, rs1, rs2, 8 ignored bits; or opcode, 4 ignored bits, rd, imm16; or opcode, imm24) -/

theorem test_decode_arithmetic :
    decodeTableWord 32 0b00000000_0000_0011_0001_0010_00000000 = some (.add 3 1 2) ∧
    decodeTableWord 32 0b00000001_0000_0011_0001_0010_00000000 = some (.sub 3 1 2) ∧
    decodeTableWord 32 0b00000010_0000_0011_0001_0010_00000000 = some (.mul 3 1 2) ∧
    decodeTableWord 32 0b00000011_0000_0010_0001_0000_00000000 = some (.neg 2 1) ∧
    decodeTableWord 32 0b00000100_0000_0011_0001_0010_00000000 = some (.div 3 1 2) ∧
    decodeTableWord 32 0b00000101_0000_0011_0001_0010_00000000 = some (.mod 3 1 2) := by decide

theorem test_encode_arithmetic :
    encodeWord (.add 3 1 2) = 0b00000000_0000_0011_0001_0010_00000000#32 ∧
    encodeWord (.sub 3 1 2) = 0b00000001_0000_0011_0001_0010_00000000#32 ∧
    encodeWord (.mul 3 1 2) = 0b00000010_0000_0011_0001_0010_00000000#32 ∧
    encodeWord (.neg 2 1) = 0b00000011_0000_0010_0001_0000_00000000#32 ∧
    encodeWord (.div 3 1 2) = 0b00000100_0000_0011_0001_0010_00000000#32 ∧
    encodeWord (.mod 3 1 2) = 0b00000101_0000_0011_0001_0010_00000000#32 := by decide

theorem test_decode_logical :
    decodeTableWord 32 0b00000110_0000_0011_0001_0010_00000000 = some (.and 3 1 2) ∧
    decodeTableWord 32 0b00000111_0000_0011_0001_0010_00000000 = some (.or 3 1 2) ∧
    decodeTableWord 32 0b00001000_0000_0011_0001_0010_00000000 = some (.xor 3 1 2) ∧
    decodeTableWord 32 0b00001001_0000_0010_0001_0000_00000000 = some (.not 2 1) ∧
    decodeTableWord 32 0b00001010_0000_0011_0001_0010_00000000 = some (.shl 3 1 2) ∧
    decodeTableWord 32 0b00001011_0000_0011_0001_0010_00000000 = some (.shr 3 1 2) := by decide

theorem test_encode_logical :
    encodeWord (.and 3 1 2) = 0b00000110_0000_0011_0001_0010_00000000#32 ∧
    encodeWord (.or 3 1 2) = 0b00000111_0000_0011_0001_0010_00000000#32 ∧
    encodeWord (.xor 3 1 2) = 0b00001000_0000_0011_0001_0010_00000000#32 ∧
    encodeWord (.not 2 1) = 0b00001001_0000_0010_0001_0000_00000000#32 ∧
    encodeWord (.shl 3 1 2) = 0b00001010_0000_0011_0001_0010_00000000#32 ∧
    encodeWord (.shr 3 1 2) = 0b00001011_0000_0011_0001_0010_00000000#32 := by decide

theorem test_decode_memory :
    decodeTableWord 32 0b00001100_0000_0011_0001_0010_00000000 = some (.load 3 1 2) ∧
    decodeTableWord 32 0b00001101_0000_0011_0001_0010_00000000 = some (.store 3 1 2) ∧
    decodeTableWord 32 0b00001110_0000_0011_0001_0010_00000000 = some (.loadb 3 1 2) ∧
    decodeTableWord 32 0b00001111_0000_0011_0001_0010_00000000 = some (.storeb 3 1 2) ∧
    decodeTableWord 32 0b00010000_0000_0001_1111111111111110 = some (.loadi 1 (-2)) := by decide

theorem test_encode_memory :
    encodeWord (.load 3 1 2) = 0b00001100_0000_0011_0001_0010_00000000#32 ∧
    encodeWord (.store 3 1 2) = 0b00001101_0000_0011_0001_0010_00000000#32 ∧
    encodeWord (.loadb 3 1 2) = 0b00001110_0000_0011_0001_0010_00000000#32 ∧
    encodeWord (.storeb 3 1 2) = 0b00001111_0000_0011_0001_0010_00000000#32 ∧
    encodeWord (.loadi 1 (-2)) = 0b00010000_0000_0001_1111111111111110#32 := by decide

theorem test_decode_moveCompare :
    decodeTableWord 32 0b00010001_0000_0010_0001_0000_00000000 = some (.move 2 1) ∧
    decodeTableWord 32 0b00010010_0000_0000_0001_0010_00000000 = some (.cmp 1 2) ∧
    decodeTableWord 32 0b00010011_0000_0000_0001_0010_00000000 = some (.test 1 2) ∧
    decodeTableWord 32 0b00010100_0000_0011_0001_0010_00000000 = some (.slt 3 1 2) ∧
    decodeTableWord 32 0b00010101_0000_0011_0001_0010_00000000 = some (.sle 3 1 2) ∧
    decodeTableWord 32 0b00010110_0000_0011_0001_0010_00000000 = some (.seq 3 1 2) ∧
    decodeTableWord 32 0b00010111_0000_0011_0001_0010_00000000 = some (.sne 3 1 2) := by decide

theorem test_encode_moveCompare :
    encodeWord (.move 2 1) = 0b00010001_0000_0010_0001_0000_00000000#32 ∧
    encodeWord (.cmp 1 2) = 0b00010010_0000_0000_0001_0010_00000000#32 ∧
    encodeWord (.test 1 2) = 0b00010011_0000_0000_0001_0010_00000000#32 ∧
    encodeWord (.slt 3 1 2) = 0b00010100_0000_0011_0001_0010_00000000#32 ∧
    encodeWord (.sle 3 1 2) = 0b00010101_0000_0011_0001_0010_00000000#32 ∧
    encodeWord (.seq 3 1 2) = 0b00010110_0000_0011_0001_0010_00000000#32 ∧
    encodeWord (.sne 3 1 2) = 0b00010111_0000_0011_0001_0010_00000000#32 := by decide

theorem test_decode_control :
    decodeTableWord 32 0b00011000_000000000000000001000000 = some (.jmp 0x40) ∧
    decodeTableWord 32 0b00011001_000000000000000001000000 = some (.jz 0x40) ∧
    decodeTableWord 32 0b00011010_000000000000000001000000 = some (.jnz 0x40) ∧
    decodeTableWord 32 0b00011011_000000000000000001000000 = some (.jc 0x40) ∧
    decodeTableWord 32 0b00011100_000000000000000001000000 = some (.jnc 0x40) ∧
    decodeTableWord 32 0b00011101_000000000000000001000000 = some (.call 0x40) ∧
    decodeTableWord 32 0b00011110_000000000000000000000000 = some .ret := by decide

theorem test_encode_control :
    encodeWord (.jmp 0x40) = 0b00011000_000000000000000001000000#32 ∧
    encodeWord (.jz 0x40) = 0b00011001_000000000000000001000000#32 ∧
    encodeWord (.jnz 0x40) = 0b00011010_000000000000000001000000#32 ∧
    encodeWord (.jc 0x40) = 0b00011011_000000000000000001000000#32 ∧
    encodeWord (.jnc 0x40) = 0b00011100_000000000000000001000000#32 ∧
    encodeWord (.call 0x40) = 0b00011101_000000000000000001000000#32 ∧
    encodeWord .ret = 0b00011110_000000000000000000000000#32 := by decide

theorem test_decode_system :
    decodeTableWord 32 0b00011111_000000000000000000000000 = some .syscall ∧
    decodeTableWord 32 0b00100000_000000000000000000000000 = some .halt := by decide

theorem test_encode_system :
    encodeWord .syscall = 0b00011111_000000000000000000000000#32 ∧
    encodeWord .halt = 0b00100000_000000000000000000000000#32 := by decide

/-- E9: ignored bits change nothing. -/
theorem test_decode_ignores_unused_bits : decodeWord 0x00F000FF#32 = .ok (.add 0 0 0) := by decide

/-- E11, E12, R71: the lowest and a high illegal opcode. -/
theorem test_decode_illegal : decodeWord 0x21000000#32 = .error (.invalidOpcode 0x21#8) ∧
    decodeWord 0xFF123456#32 = .error (.invalidOpcode 0xFF#8) := by decide

/-- R59: three bytes are no instruction. -/
theorem test_decode_truncated : decode [0#8, 0#8, 0#8] = .error .truncated := by decide

/-- E1, E5, E7: the encoders. -/
theorem test_encoders : encodeR 0x00 3 1 2 = 0x00031200#32 ∧ encodeI 0x10 1 (-1) = 0x1001FFFF#32 ∧
    encodeJ 0x18 (-4) = 0x18FFFFFC#32 := by decide

/-- E1 in memory order (D5). -/
theorem test_encode_bytes : encode (.add 3 1 2) = [0x00#8, 0x12#8, 0x03#8, 0x00#8] := by decide

/-! ### Assembly text (S12, R73) -/

theorem test_read_line : readLine "LOADI r1, 5".toList = some (.loadi 1 5) ∧
    readLine "jmp 0x100".toList = some (.jmp 0x100) := by decide

theorem test_print_line : printLine (.loadi 1 5) = "LOADI r1, 5".toList := by decide

/-- R77: an unknown opcode is rendered raw. -/
theorem test_disassemble : disassemble 0x21000000#32 = .raw 0x21000000#32 ∧
    disassemble 0x10010005#32 = .legal .loadi [.reg 1, .imm 5] := by decide

/-! ### Arithmetic (2.2) -/

/-- A1. -/
theorem test_add_signed_overflow : after (.add 3 1 2) (withRegs [(1, 0x7FFFFFFF#32), (2, 0x1#32)]) (regFlagsPc 3)
    = some (0x80000000#32, zncv false true false true, 4#32) := by decide

/-- A5. -/
theorem test_add_carry_same_register : after (.add 1 1 2) (withRegs [(1, 0xFFFFFFFF#32), (2, 0x2#32)]) (regFlagsPc 1)
    = some (0x1#32, zncv false false true false, 4#32) := by decide

/-- A9. -/
theorem test_sub_borrow_and_overflow : after (.sub 3 1 2) (withRegs [(1, 0x7FFFFFFF#32), (2, 0xFFFFFFFF#32)]) (regFlagsPc 3)
    = some (0x80000000#32, zncv false true true true, 4#32) := by decide

/-- A8. -/
theorem test_sub_overflow_without_borrow : after (.sub 3 1 2) (withRegs [(1, 0x80000000#32), (2, 0x1#32)]) (regFlagsPc 3)
    = some (0x7FFFFFFF#32, zncv false false false true, 4#32) := by decide

/-- A13. -/
theorem test_mul_carry_without_overflow : after (.mul 3 1 2) (withRegs [(1, 0xFFFFFFFF#32), (2, 0xFFFFFFFF#32)]) (regFlagsPc 3)
    = some (0x1#32, zncv false false true false, 4#32) := by decide

/-- A16. -/
theorem test_mul_overflow_without_carry : after (.mul 3 1 2) (withRegs [(1, 0x40000000#32), (2, 0x2#32)]) (regFlagsPc 3)
    = some (0x80000000#32, zncv false true false true, 4#32) := by decide

/-- A18. -/
theorem test_neg_one : after (.neg 2 1) (withRegs [(1, 0x1#32)]) (regFlagsPc 2)
    = some (0xFFFFFFFF#32, zncv false true true false, 4#32) := by decide

/-- A20. -/
theorem test_neg_most_negative : after (.neg 2 1) (withRegs [(1, 0x80000000#32)]) (regFlagsPc 2)
    = some (0x80000000#32, zncv false true true true, 4#32) := by decide

/-- A22. -/
theorem test_div_unsigned : after (.div 3 1 2) (withRegs [(1, 0xFFFFFFFF#32), (2, 0x2#32)]) (regFlagsPc 3)
    = some (0x7FFFFFFF#32, zncv false false false false, 4#32) := by decide

/-- A25. -/
theorem test_div_zero : faultOf (.div 3 1 2) (withRegs [(1, 7#32), (3, 0xAAAA#32)]) = some (.divZero 0#32) := by decide

/-- A29. -/
theorem test_mod_keeps_carry : after (.mod 3 1 2) ((withRegs [(1, 0x8#32), (2, 0x4#32)]).setFlags (zncv false true true false)) (regFlagsPc 3)
    = some (0x0#32, zncv true false true false, 4#32) := by decide

/-- A27. -/
theorem test_mod_unsigned : after (.mod 3 1 2) (withRegs [(1, 0xFFFFFFF9#32), (2, 0x2#32)]) (regFlagsPc 3)
    = some (0x1#32, zncv false false false false, 4#32) := by decide

/-! ### Logical and shift (2.3) -/

/-- L2. -/
theorem test_and_keeps_carry_overflow : after (.and 3 1 2) ((withRegs [(1, 0xF0F0F0F0#32), (2, 0xF0F0F0F#32)]).setFlags (zncv false true true true)) (regFlagsPc 3)
    = some (0x0#32, zncv true false true true, 4#32) := by decide

/-- L3. -/
theorem test_or : after (.or 3 1 2) (withRegs [(1, 0xF0000000#32), (2, 0xF#32)]) (regFlagsPc 3)
    = some (0xF000000F#32, zncv false true false false, 4#32) := by decide

/-- L5. -/
theorem test_xor : after (.xor 3 1 2) (withRegs [(1, 0xFFFF0000#32), (2, 0xF0F0F0F#32)]) (regFlagsPc 3)
    = some (0xF0F00F0F#32, zncv false true false false, 4#32) := by decide

/-- L7. -/
theorem test_not : after (.not 2 1) (withRegs [(1, 0xFFFF#32)]) (regFlagsPc 2)
    = some (0xFFFF0000#32, zncv false true false false, 4#32) := by decide

/-- L10. -/
theorem test_shl_amount_32 : after (.shl 3 1 2) (withRegs [(1, 0x1#32), (2, 0x20#32)]) (regFlagsPc 3)
    = some (0x1#32, zncv false false false false, 4#32) := by decide

/-- L12. -/
theorem test_shl_amount_masked : after (.shl 3 1 2) (withRegs [(1, 0x12345678#32), (2, 0xFFFFFFE4#32)]) (regFlagsPc 3)
    = some (0x23456780#32, zncv false false false false, 4#32) := by decide

/-- L13. -/
theorem test_shr_logical : after (.shr 3 1 2) (withRegs [(1, 0x80000000#32), (2, 0x4#32)]) (regFlagsPc 3)
    = some (0x8000000#32, zncv false false false false, 4#32) := by decide

/-- L15. -/
theorem test_shr_amount_masked : after (.shr 3 1 2) (withRegs [(1, 0x80000000#32), (2, 0x21#32)]) (regFlagsPc 3)
    = some (0x40000000#32, zncv false false false false, 4#32) := by decide

/-! ### Memory operations (2.4) -/

/-- M2, M6: unaligned, and an address that wraps. -/
theorem test_load : after (.load 3 1 2) ((withRegs [(1, 0x4000#32), (2, 1#32)]).setMem dataMem) (regFlagsPc 3)
      = some (0x00123456#32, zncv false false false false, 4#32) ∧
    after (.load 3 1 2) ((withRegs [(1, 0xFFFFF000#32), (2, 0x5000#32)]).setMem dataMem) (·.reg 3)
      = some 0x12345678#32 := by decide

/-- M4, M5. -/
theorem test_load_fault : faultOf (.load 3 1 2) (withRegs [(1, 0xBFFE#32)]) = some (.loadFault 0xBFFE#32) ∧
    faultOf (.load 3 1 2) (withRegs [(1, 0xFFFD#32)]) = some (.loadFault 0xFFFD#32) := by decide

/-- M8. -/
theorem test_loadb_zero_extends :
    after (.loadb 3 1 2) ((withRegs [(1, 0x4000#32), (2, 0x10#32)]).setMem dataMem) (·.reg 3)
      = some 0xFE#32 := by decide

/-- M10. -/
theorem test_loadb_fault : faultOf (.loadb 3 1 2) (withRegs [(1, 0xC000#32)]) = some (.loadFault 0xC000#32) := by decide

/-- M11. -/
theorem test_store : after (.store 3 1 2) (withRegs [(1, 0x4000#32), (2, 4#32), (3, 0xAABBCCDD#32)])
      (fun t => t.mem.readBytes 0x4004 4) = some [0xDD#8, 0xCC#8, 0xBB#8, 0xAA#8] := by decide

/-- M12, M13. -/
theorem test_store_fault : faultOf (.store 3 1 2) (withRegs [(1, 0x100#32)]) = some (.storeFault 0x100#32) ∧
    faultOf (.store 3 1 2) (withRegs [(1, 0xBFFE#32)]) = some (.storeFault 0xBFFE#32) := by decide

/-- M14. -/
theorem test_storeb :
    after (.storeb 3 1 2) ((withRegs [(1, 0x4000#32), (2, 1#32), (3, 0x12345678#32)]).setMem dataMem)
      (fun t => t.mem.readBytes 0x4000 4) = some [0x78#8, 0x78#8, 0x34#8, 0x12#8] := by decide

/-- M15. -/
theorem test_storeb_fault : faultOf (.storeb 3 1 2) (withRegs [(1, 0xFFFF#32), (2, 1#32)])
    = some (.storeFault 0x10000#32) := by decide

/-- M19, and M20 through the encoder, which cuts the immediate to its field. -/
theorem test_loadi : after (.loadi 1 (-32768)) State.reset (·.reg 1) = some 0xFFFF8000#32 ∧
    encodeWord (.loadi 1 0xC000) = 0x1001C000#32 ∧
    decodeWord 0x1001C000#32 = .ok (.loadi 1 (-16384)) := by decide

/-- M21. -/
theorem test_loadi_flags : after (.loadi 1 0) (State.reset.setFlags (zncv false true true true)) (regFlagsPc 1)
    = some (0#32, zncv false true true true, 4#32) := by decide

/-- The canonical form: writing the unlisted byte removes the entry, and entries stay sorted. -/
theorem test_memory_canonical : Memory.write [(5, 1#8)] 5 0#8 = [] ∧
    Memory.write [(5, 1#8)] 3 2#8 = [(3, 2#8), (5, 1#8)] := by decide

/-! ### Move, compare, set (2.5) -/

/-- MC1. -/
theorem test_move_keeps_flags : after (.move 1 2) ((withRegs [(2, 0xDEADBEEF#32)]).setFlags (zncv true true true true)) (regFlagsPc 1)
    = some (0xDEADBEEF#32, zncv true true true true, 4#32) := by decide

/-- MC2. -/
theorem test_cmp_borrow : after (.cmp 1 2) (withRegs [(1, 0x3#32), (2, 0x5#32)]) (regFlagsPc 1)
    = some (0x3#32, zncv false true true false, 4#32) := by decide

/-- MC5. -/
theorem test_cmp_overflow : after (.cmp 1 2) (withRegs [(1, 0x80000000#32), (2, 0x1#32)]) (regFlagsPc 1)
    = some (0x80000000#32, zncv false false false true, 4#32) := by decide

/-- MC7. -/
theorem test_test_keeps_carry_overflow : after (.test 1 2) ((withRegs [(1, 0x10#32), (2, 0x1#32)]).setFlags (zncv false false true true)) (regFlagsPc 1)
    = some (0x10#32, zncv true false true true, 4#32) := by decide

/-- MC8. -/
theorem test_test_negative : after (.test 1 2) (withRegs [(1, 0x80000001#32), (2, 0x80000000#32)]) (regFlagsPc 1)
    = some (0x80000001#32, zncv false true false false, 4#32) := by decide

/-- MC11. -/
theorem test_slt_signed : after (.slt 3 1 2) (withRegs [(1, 0x80000000#32), (2, 0x7FFFFFFF#32)]) (regFlagsPc 3)
    = some (0x1#32, zncv false false false false, 4#32) := by decide

/-- MC12. -/
theorem test_slt_equal : after (.slt 3 1 1) (withRegs [(1, 0x4#32)]) (regFlagsPc 3)
    = some (0x0#32, zncv false false false false, 4#32) := by decide

/-- MC13. -/
theorem test_sle_equal : after (.sle 3 1 2) (withRegs [(1, 0x5#32), (2, 0x5#32)]) (regFlagsPc 3)
    = some (0x1#32, zncv false false false false, 4#32) := by decide

/-- MC14. -/
theorem test_sle_signed : after (.sle 3 1 2) (withRegs [(1, 0x7FFFFFFF#32), (2, 0x80000000#32)]) (regFlagsPc 3)
    = some (0x0#32, zncv false false false false, 4#32) := by decide

/-- MC16. -/
theorem test_seq_same_register : after (.seq 1 1 2) (withRegs [(1, 0x8#32), (2, 0x8#32)]) (regFlagsPc 1)
    = some (0x1#32, zncv false false false false, 4#32) := by decide

/-- MC17. -/
theorem test_sne : after (.sne 3 1 2) (withRegs [(1, 0x7#32), (2, 0x8#32)]) (regFlagsPc 3)
    = some (0x1#32, zncv false false false false, 4#32) := by decide

/-! ### Control transfer (2.6) -/

/-- CF1, CF3. -/
theorem test_jmp : after (.jmp 0x100) (atTen (zncv false false false false)) (·.pc) = some 0x100#32 ∧
    after (.jmp (-4)) (atTen (zncv false false false false)) (·.pc) = some 0xFFFFFFFC#32 := by decide

/-- CF4, CF5. -/
theorem test_jz : after (.jz 0x40) (atTen (zncv true false false false)) (·.pc) = some 0x40#32 ∧
    after (.jz 0x40) (atTen (zncv false true true true)) (·.pc) = some 0x14#32 := by decide

/-- CF6, CF7. -/
theorem test_jnz : after (.jnz 0x40) (atTen (zncv false true true true)) (·.pc) = some 0x40#32 ∧
    after (.jnz 0x40) (atTen (zncv true false false false)) (·.pc) = some 0x14#32 := by decide

/-- CF8, CF9. -/
theorem test_jc : after (.jc 0x80) (atTen (zncv false false true false)) (·.pc) = some 0x80#32 ∧
    after (.jc 0x80) (atTen (zncv true true false true)) (·.pc) = some 0x14#32 := by decide

/-- CF10, CF11. -/
theorem test_jnc : after (.jnc 0x80) (atTen (zncv true true false true)) (·.pc) = some 0x80#32 ∧
    after (.jnc 0x80) (atTen (zncv false false true false)) (·.pc) = some 0x14#32 := by decide

/-- CF13. -/
theorem test_call : after (.call 0x20) (State.reset.setPc 0x14#32)
      (fun t => (t.mem.readBytes 0xFFF8 4, t.sp, t.pc))
    = some ([0x18#8, 0#8, 0#8, 0#8], 0xFFF8#32, 0x20#32) := by decide

/-- CF14, CF15. -/
theorem test_call_fault : faultOf (.call 0x20) (State.reset.setSp 0xE000#32) = some (.storeFault 0xDFFC#32) ∧
    faultOf (.call 0x20) (State.reset.setSp 2#32) = some (.storeFault 0xFFFFFFFE#32) := by decide

/-- CF16, CF17. -/
theorem test_ret : after .ret ((State.reset.setSp 0xFFF8#32).setMem [(0xFFF8, 0x18#8)]) (fun t => (t.pc, t.sp))
      = some (0x18#32, 0xFFFC#32) ∧
    after .ret State.reset (fun t => (t.pc, t.sp)) = some (0#32, 0x10000#32) := by decide

/-- CF18, CF19. -/
theorem test_ret_fault : faultOf .ret (State.reset.setSp 0x10000#32) = some (.loadFault 0x10000#32) ∧
    faultOf .ret (State.reset.setSp 0xFFFE#32) = some (.loadFault 0xFFFE#32) := by decide

/-! ### System (2.8, 2.9) -/

/-- SY19. -/
theorem test_halt : after .halt State.reset (fun t => (t.halted, t.pc, t.exitCode)) = some (true, 4#32, 0#32) := by decide

/-- SY1. -/
theorem test_syscall_exit : after .syscall (withRegs [(1, 7#32)]) (fun t => (t.halted, t.exitCode, t.reg 0, t.pc))
    = some (true, 7#32, 0#32, 4#32) := by decide

/-- SY2. -/
theorem test_syscall_print :
    after .syscall ((withRegs [(0, 1#32), (1, 0x4000#32), (2, 2#32)]).setMem [(0x4000, 0x48#8), (0x4001, 0x49#8)])
      (fun t => (t.reg 0, t.output)) = some (2#32, [[0x48#8, 0x49#8]]) := by decide

/-- SY3, SY6. -/
theorem test_syscall_print_nothing :
    after .syscall (withRegs [(0, 1#32), (1, 0xC000#32), (2, 2#32)]) (fun t => (t.reg 0, t.output))
      = some (0xFFFFFFFF#32, []) ∧
    after .syscall (withRegs [(0, 1#32)]) (fun t => (t.reg 0, t.output)) = some (0#32, []) := by decide

/-- SY7. -/
theorem test_syscall_read :
    after .syscall ((withRegs [(0, 2#32), (1, 0x4000#32), (2, 8#32)]).lineUpInput [0x61#8, 0x62#8, 0x0A#8])
      (fun t => (t.reg 0, t.mem.readBytes 0x4000 4, t.inputs))
    = some (3#32, [0x61#8, 0x62#8, 0x0A#8, 0#8], []) := by decide

/-- SY8. -/
theorem test_syscall_read_unwritable :
    after .syscall ((withRegs [(0, 2#32), (2, 8#32)]).lineUpInput [0x61#8]) (fun t => (t.reg 0, t.inputs))
      = some (0xFFFFFFFF#32, [[0x61#8]]) := by decide

/-- SY9. -/
theorem test_syscall_get_time : after .syscall ((withRegs [(0, 3#32)]).setTick 1234#32) (·.reg 0)
    = some 0x4D2#32 := by decide

/-- SY11: the counters include the step's own 1. -/
theorem test_syscall_sleep :
    (executeDecoded .syscall ((withRegs [(0, 4#32), (1, 0xFFFFFFFF#32)]).setTick 5#32)).2.tick = 4#32 ∧
    (executeDecoded .syscall ((withRegs [(0, 4#32), (1, 0xFFFFFFFF#32)]).setTick 5#32)).2.dbg.cycles
      = 0x100000000#64 := by decide

/-- SY12, SY13. -/
theorem test_syscall_alloc :
    after .syscall (withRegs [(0, 5#32), (1, 100#32)]) (fun t => (t.reg 0, t.heap.used)) = some (0x4000#32, 100) ∧
    after .syscall (withRegs [(0, 5#32), (1, 0x8001#32)]) (fun t => (t.reg 0, t.heap.used))
      = some (0#32, 0) := by decide

/-- HP3: the failure test uses the request, not its rounded size. -/
theorem test_alloc_sequence :
    (Heap.alloc ⟨0x4000#32, 0x8000#32, 0x7FFE⟩ 1) = (0xBFFE, ⟨0x4000#32, 0x8000#32, 0x8002⟩) ∧
    (Heap.alloc ⟨0x4000#32, 0x8000#32, 0x8002⟩ 0).1 = 0 := by decide

/-- SY16, SY17, SY18. -/
theorem test_syscall_others : after .syscall (withRegs [(0, 6#32), (1, 0x4000#32)]) (·.reg 0) = some 0#32 ∧
    after .syscall (withRegs [(0, 10#32)]) (·.reg 0) = some 0xFFFFFFFF#32 ∧
    after .syscall (withRegs [(0, 11#32)]) (·.reg 0) = some 0xFFFFFFFF#32 := by decide

/-! ### The step, the debugger, the host (2.7, 2.10, 2.11) -/

/-- DBG1's state: at a breakpoint. -/
def atBreak : State := (State.reset.setPc 0x10#32).setDbg ⟨true, false, [0x10#32], 0#64, 0#64⟩

/-- E10: the reset state runs ADD r0, r0, r0. -/
theorem test_first_step : (engineStep State.reset).1 = .cont ∧ (engineStep State.reset).2.flags.z = true ∧
    (engineStep State.reset).2.pc = 4#32 ∧ (engineStep State.reset).2.dbg.instructions = 1#64 := by decide

/-- E11. -/
theorem test_illegal_step : (engineStep (State.reset.setMem [(3, 0x21#8)])).1 = .error (.invalidOpcode 0#32) := by decide

/-- FE3, FE5. -/
theorem test_fetch_fault : (engineStep (State.reset.setPc 0x3FFE#32)).1 = .error (.fetchFault 0x3FFE#32) ∧
    (engineStep (State.reset.setPc 0xFF800000#32)).1 = .error (.fetchFault 0xFF800000#32) := by decide

/-- DBG4, DBG7: single-stepping over LOADI and over HALT. -/
theorem test_single_step_statuses :
    (executeDecoded (.loadi 1 5) (State.reset.setDbg ⟨true, true, [], 0#64, 0#64⟩)).1 = .paused ∧
    (executeDecoded .halt (State.reset.setDbg ⟨true, true, [], 0#64, 0#64⟩)).1 = .halted := by decide

/-- DBG1, DBG8. -/
theorem test_breakpoint_status : engineStep atBreak = (.paused, atBreak) ∧
    (engineStep atBreak.halt).1 = .halted := ⟨rfl, by decide⟩

/-- SY1 and R139: run over an EXIT alone. -/
theorem test_run_exit :
    (run 2 ((withRegs [(1, 7#32)]).setMem [(3, 0x1F#8)])).1 = .halted 7#32 := by decide

/-- HO1, HO3, HO4. -/
theorem test_host_load :
    (perform (.load (List.replicate 8 1#8) 0xBFFC#32) State.reset) = (.fail, State.reset) ∧
    (perform (.load (List.replicate 8 1#8) 0#32) State.reset).1 = .ok ∧
    (perform (.load [] 0x20000#32) State.reset) = (.ok, State.reset) := ⟨rfl, by decide, rfl⟩

/-- HO9. -/
theorem test_set_protection :
    (perform (.getProtection 192) (perform (.setProtection 192 0x17) State.reset).2).1 = .protection 0x7#4 := by decide

/-- Placing a word where the next step fetches: E1. -/
theorem test_with_fetch_word : (State.reset.withFetchWord 32 0x00031200).fetchBytes = [0x00#8, 0x12#8, 0x03#8, 0x00#8] ∧
    (engineStep (State.reset.withFetchWord 32 0x20000000)).1 = .halted := by decide

/-- R136, R140: the codes. -/
theorem test_codes : Fault.code (.fetchFault 0#32) = 1 ∧ Fault.code (.invalidOpcode 0#32) = 2 ∧
    Fault.code (.loadFault 0#32) = 3 ∧ Fault.code (.storeFault 0#32) = 4 ∧ Fault.code (.divZero 0#32) = 5 ∧
    Status.code .cont = some 0 ∧ Status.code .halted = some 1 ∧ Status.code .paused = some 2 ∧
    Status.code (.error (.divZero 0#32)) = some 3 := by decide

/-- R23 (D8): the bitmask positions. -/
theorem test_flag_bitmask : (zncv true false false false).bitmask = 1#4 ∧ (zncv false true false false).bitmask = 2#4 ∧
    (zncv false false true false).bitmask = 4#4 ∧ (zncv false false false true).bitmask = 8#4 := by decide

/-! ### Parameters other than the defaults (R7; the alternatives are those 92_eei_decisions.md names) -/

/-- D1, D4, R7: under other numbers 0xF0 is SYSCALL and the number 9 is ALLOC of the size in r3; the default's opcode 0x1F
is illegal. -/
def otherMaps : Params := {
  opcodeMap := [{ number := 0xF0#8, mnemonic := .syscall }]
  syscallMap := [{ number := 9#32, service := .alloc, args := { first := 3 } }] }

theorem test_params_maps :
    (engineStep ((withRegs [(0, 9#32), (3, 4#32)]).setMem [(3, 0xF0#8)]) otherMaps).2.reg 0 = 0x4000#32 ∧
    (engineStep ((withRegs [(0, 9#32), (3, 4#32)]).setMem [(3, 0xF0#8)]) otherMaps).2.heap.used = 4 ∧
    (engineStep (State.reset.setMem [(3, 0x1F#8)]) otherMaps).1 = .error (.invalidOpcode 0#32) := by decide

/-- D3: MOVE from rs2, and a jump whose target is the I-type immediate; a row that gives two operands one field carries
no instruction. -/
theorem test_params_fields :
    decodeWith [{ number := 0x11#8, mnemonic := .move, first := .rs2 }] 0x11020300#32 = .ok (.move 2 3) ∧
    encodeWith [{ number := 0x11#8, mnemonic := .move, first := .rs2 }] (.move 2 3) = some 0x11020300#32 ∧
    decodeWith [{ number := 0x18#8, mnemonic := .jmp, format := .i }] 0x1800FFFC#32 = .ok (.jmp (-4)) ∧
    encodeWith [{ number := 0x18#8, mnemonic := .jmp, format := .i }] (.jmp (-4)) = some 0x1800FFFC#32 ∧
    encodeWith [{ number := 0x18#8, mnemonic := .jmp, format := .i }] (.jmp 0x10000) = none ∧
    encodeWith [{ number := 0x11#8, mnemonic := .move, first := .rd }] (.move 2 3) = none := by decide

/-- NREGS 8 and INSN_BYTES 8 (notes/assumptions 19): r8 is not there; the word is followed by four more bytes. -/
theorem test_params_nregs_insnBytes : decodeWord 0x00080000#32 { nregs := 8 } = .error .noRegister ∧
    decodeWord 0x00070000#32 { nregs := 8 } = .ok (.add 7 0 0) ∧
    State.reset.hostGetReg 8 { nregs := 8 } = none ∧
    (engineStep State.reset { insnBytes := 8 }).2.pc = 8#32 := by decide

/-- XLEN 16 (notes/assumptions 19): 0x8000 + 0x8000 wraps to 0 with carry and signed overflow, and -1 is 0xFFFF. -/
theorem test_params_xlen :
    (engineStep (withRegs [(0, 0x8000#32)]) { xlen := 16 }).2.reg 0 = 0#32 ∧
    (engineStep (withRegs [(0, 0x8000#32)]) { xlen := 16 }).2.flags = zncv true false true true ∧
    (executeDecoded (.loadi 1 (-1)) State.reset { xlen := 16 }).2.reg 1 = 0xFFFF#32 ∧
    (executeDecoded (.slt 3 1 2) (withRegs [(1, 0xFFFF#32), (2, 1#32)]) { xlen := 16 }).2.reg 3 = 1#32 := by decide

/-- D7, R7: other protection bits; the entry of a code page, its permission to be fetched, none to be written. -/
def otherBits : Params := { protP := 0x8#4, protR := 0x4#4, protW := 0x2#4, protX := 0x1#4 }

theorem test_params_bits : (State.resetWith otherBits).prot.entry 0 = 0xD#4 ∧
    (State.resetWith otherBits).canFetch otherBits = true ∧
    (State.resetWith otherBits).canWrite 0#32 4 otherBits = false := by decide

/-- D14, D17: the alternatives of MUL_V_RULE and LOGIC_CV_POLICY. -/
theorem test_params_flags :
    (flagsMul .zero (zncv false false false true) 0x40000000#32 2#32).v = false ∧
    (flagsMul .unchanged (zncv false false false true) 1#32 1#32).v = true ∧
    (flagsMul .asCarry (zncv false false false false) 0xFFFFFFFF#32 2#32).v = true ∧
    flagsLogic .clear (zncv false false true true) 0#32 = zncv true false false false := by decide

/-- D5: a word stored and the bytes it leaves, big-endian. -/
theorem test_params_bigEndian :
    (State.reset.storeWord 0x4000#32 0x12345678#32 { byteOrder := .big }).mem.read 0x4000 = 0x12#8 ∧
    ((State.reset.storeWord 0x4000#32 0x12345678#32 { byteOrder := .big }).loadWord 0x4000#32 { byteOrder := .big })
      = 0x12345678#32 := by decide

/-- D18, D22: SHR_KIND, LOADB_EXT, STORE_DATA_FIELD. -/
theorem test_params_operands : shiftRight .arithmetic 0x80000000#32 4 = 0xF8000000#32 ∧
    extendByte .sign 0xFE#8 = 0xFFFFFFFE#32 ∧ dataRegister .rs2 3 1 2 = 2 := by decide

/-- D29: with BP_SKIP_ONCE the second step at a breakpoint executes the instruction. -/
theorem test_params_skipOnce : (engineStep atBreak { bpSkipOnce := true }).1 = .paused ∧
    (engineStep (engineStep atBreak { bpSkipOnce := true }).2 { bpSkipOnce := true }).1 = .cont ∧
    (engineStep (engineStep atBreak { bpSkipOnce := true }).2 { bpSkipOnce := true }).2.pc = 0x14#32 := by decide

/-- D30: without RUN_STOPS_ON_PAUSE the run goes on at a breakpoint. -/
theorem test_params_runGoesOn : (run 3 atBreak { runStopsOnPause := false }).1 = .outOfFuel ∧
    (run 3 atBreak).1 = .paused := by decide

/-- D33: READ_TERMINATOR after the host's bytes, which leave it room. -/
theorem test_params_terminator :
    (sysRead { withRegs [(0, 2#32), (1, 0x4000#32), (2, 3#32)] with inputs := [[1#8, 2#8, 4#8, 5#8]] }
      { readTerminator := some 9#8 }).mem = [(0x4000, 1#8), (0x4001, 2#8), (0x4002, 9#8)] := by decide

/-- COUNTER_WIDTH, TICK_WIDTH, MAX_BREAKPOINTS (D12, D13, D35) smaller than the defaults. -/
theorem test_params_widths : (State.reset.addTick 0x1FF#32 { tickWidth := 8 }).tick = 0xFF#32 ∧
    (State.reset.addCycles 0x100#64 { counterWidth := 8 }).dbg.cycles = 0#64 ∧
    (atBreak.addBreakpoint 0x20#32 { maxBreakpoints := 1 }).1 = false := by decide
/-! ### Witnesses: a concrete state and operands that meet all hypotheses of each obligation that has some, at the
boundary values of each clause (access boundaries: R41, R32) -/

/-- A range is allowed where the check says so. -/
theorem allowed_of_check {t : PageTable} {perm : Prot} {addr : Word} {n : Nat}
    (h : checkAccess t addr n perm = true) : RangeAllowed t perm addr.toNat n := (checkAccess_iff _ _ _ _).mp h

/-- A range is not allowed where the check says so. -/
theorem not_allowed_of_check {t : PageTable} {perm : Prot} {addr : Word} {n : Nat}
    (h : checkAccess t addr n perm = false) : ¬RangeAllowed t perm addr.toNat n := fun hr => by
  simp [(checkAccess_iff _ _ _ _).mpr hr] at h

/-- The default layout's table, by its name in the state. -/
theorem reset_prot : State.reset.prot = PageTable.default := rfl

/-- The invariant of the reset state. -/
theorem reset_inv : MachineInv State.reset where
  memCanonical := Memory.nil_wf
  memInBounds := fun _ h => absurd h List.not_mem_nil
  fpConstant := rfl
  spAligned := by decide
  heapBase := rfl
  heapSize := rfl
  heapUsed := Nat.zero_le _
  breakpointsDistinct := List.nodup_nil
  breakpointsFew := Nat.zero_le _
  oneEntryPerPage := PageTable.length_default

/-- The fields at their bounds, and what they decode to (R75, R76). -/
theorem witness_RawFieldsRoundTrip : (255 < 256 ∧ 15 < 16) ∧
    (decodeFields (encodeR 255 15 15 15)).rs2.val = 15 ∧ (decodeFields (encodeR 0 0 0 0)).opcode.toNat = 0 ∧
    sext (decodeFields (encodeI 255 15 (-32768))).imm16 = 0xFFFF8000#32 ∧
    sext (decodeFields (encodeI 0 0 32767)).imm16 = 0x7FFF#32 ∧
    sext (decodeFields (encodeJ 255 (-(2 ^ 23)))).imm24 = 0xFF800000#32 ∧
    sext (decodeFields (encodeJ 0 (2 ^ 23 - 1))).imm24 = 0x7FFFFF#32 := by decide

theorem witness_DecodeEncodeRoundTrip : (Instr.loadi 15 (-32768)).wellFormed = true ∧
    (Instr.jmp 8388607).wellFormed = true ∧ (Instr.add 0 15 0).wellFormed = true ∧
    decode (encode (.loadi 15 (-32768)) ++ [7#8]) = .ok (.loadi 15 (-32768), [7#8]) := by decide

/-- A map that is not the spec's, with no number twice. -/
theorem witness_RoundTripUnderEveryOpcodeMap : (Instr.halt).wellFormed = true ∧
    (([{ number := 0xF0#8, mnemonic := .halt }, { number := 0x00#8, mnemonic := .ret }] : OpcodeMap).map (·.1)).Nodup ∧
    encodeWith [{ number := 0xF0#8, mnemonic := .halt }, { number := 0x00#8, mnemonic := .ret }] .halt =
      some 0xF0000000#32 := by decide

/-- E9. -/
theorem witness_UnusedBitsAreDontCare :
    Config.opcodeMap.mnemonicOf (decodeFields 0x00F000FF#32).opcode = some .add ∧
    0x00F000FF#32 &&& usedBits .add = 0x00000000#32 &&& usedBits .add := by decide

/-- The highest legal and the lowest illegal opcode. -/
theorem witness_LegalExactlyUpToOpcode32 : (decodeFields 0x20FFFFFF#32).opcode.toNat ≤ 0x20 ∧
    0x20 < (decodeFields 0x21000000#32).opcode.toNat := by decide

theorem witness_DivAndModCompleteOnNonZeroDivisor : (withRegs [(1, 7#32), (2, 2#32)]).reg 2 ≠ 0#32 := by decide

/-- A3. -/
theorem witness_AddCarryAndOverflowInTheirOtherForms : ∃ t,
    exec (.add 3 1 2) (withRegs [(1, 0x80000000#32), (2, 0x80000000#32)]) = .next t ∧ t.flags.v = true :=
  ⟨_, rfl, by decide⟩

/-- A25; CF14 and CF15; CF18 and CF19. -/
theorem witness_DivideAndStackFaultsHaveNoEffect : State.reset.reg 2 = 0#32 ∧
    ¬RangeAllowed State.reset.prot permWrite (0xE000#32 - 4#32).toNat 4 ∧
    ¬RangeAllowed State.reset.prot permWrite (2#32 - 4#32).toNat 4 ∧
    ¬RangeAllowed State.reset.prot permRead (0x10000#32).toNat 4 ∧
    ¬RangeAllowed State.reset.prot permRead (0xFFFD#32).toNat 4 :=
  ⟨by decide, not_allowed_of_check (by decide), not_allowed_of_check (by decide),
    not_allowed_of_check (by decide), not_allowed_of_check (by decide)⟩

/-- The first and last words and bytes, and a range over two pages (M3). -/
theorem witness_LoadsReadReadableBytes :
    RangeAllowed State.reset.prot permRead (State.reset.reg 1 + State.reset.reg 2).toNat 4 ∧
    RangeAllowed State.reset.prot permRead (0x40FE#32 + 0#32).toNat 4 ∧
    RangeAllowed State.reset.prot permRead (0xFFFC#32 + 0#32).toNat 4 ∧
    RangeAllowed State.reset.prot permRead (0xFFFF#32 + 0#32).toNat 1 :=
  ⟨allowed_of_check (by decide), allowed_of_check (by decide), allowed_of_check (by decide),
    allowed_of_check (by decide)⟩

theorem witness_StoresWriteWritableBytes :
    RangeAllowed State.reset.prot permWrite ((withRegs [(1, 0x4000#32)]).ea 1 2).toNat 4 ∧
    RangeAllowed State.reset.prot permWrite ((withRegs [(1, 0xFFFC#32)]).ea 1 2).toNat 4 ∧
    RangeAllowed State.reset.prot permWrite ((withRegs [(1, 0xFFFF#32)]).ea 1 2).toNat 1 :=
  ⟨allowed_of_check (by decide), allowed_of_check (by decide), allowed_of_check (by decide)⟩

/-- M4, M10; M13, M15. -/
theorem witness_DisallowedAccessFaultsWithNoEffect :
    ¬RangeAllowed State.reset.prot permRead ((withRegs [(1, 0xBFFE#32)]).ea 1 2).toNat 4 ∧
    ¬RangeAllowed State.reset.prot permRead ((withRegs [(1, 0xC000#32)]).ea 1 2).toNat 1 ∧
    ¬RangeAllowed State.reset.prot permWrite ((withRegs [(1, 0xBFFD#32)]).ea 1 2).toNat 4 ∧
    ¬RangeAllowed State.reset.prot permWrite ((withRegs [(1, 0xFFFF#32), (2, 1#32)]).ea 1 2).toNat 1 :=
  ⟨not_allowed_of_check (by decide), not_allowed_of_check (by decide), not_allowed_of_check (by decide),
    not_allowed_of_check (by decide)⟩

theorem witness_MoveAndLoadiWriteOneRegister : (Instr.loadi 1 (-32768)).wellFormed = true ∧
    (Instr.loadi 1 32767).wellFormed = true := by decide

theorem witness_JumpsSetOnlyThePc : (Instr.jmp (-8388608)).wellFormed = true ∧
    (Instr.jmp 8388607).wellFormed = true := by decide

/-- The slot at the end of memory and the first one of the stack region. -/
theorem witness_CallPushesReturnAddressAndJumps : (Instr.call (-8388608)).wellFormed = true ∧
    RangeAllowed State.reset.prot permWrite (0x10000#32 - 4#32).toNat 4 ∧
    RangeAllowed State.reset.prot permWrite (0xE004#32 - 4#32).toNat 4 :=
  ⟨by decide, allowed_of_check (by decide), allowed_of_check (by decide)⟩

/-- CF17. -/
theorem witness_RetPopsIntoPc : RangeAllowed State.reset.prot permRead State.reset.sp.toNat 4 :=
  allowed_of_check (by decide)

/-- The call of S5, and a state that keeps what it pushed. -/
theorem witness_CallThenRetReturns : ∃ t u : State, exec (.call 0x20) (State.reset.setPc 0x14#32) = .next t ∧
    u = t.setPc 0x28#32 ∧ u.sp = t.sp ∧ RangeAllowed u.prot permRead u.sp.toNat 4 ∧
    ∀ k, k < 4 → u.mem.read (u.sp.toNat + k) = t.mem.read (t.sp.toNat + k) :=
  ⟨_, _, rfl, rfl, rfl, allowed_of_check (by decide), fun _ _ => rfl⟩

theorem witness_HaltAndExitHalt : State.reset.reg 0 = 0#32 := by decide

/-- SY6; SY4; SY5; and one byte on either side of the Reserved region. -/
theorem witness_PrintEmitsReadableBytes : (withRegs [(0, 1#32)]).reg 0 = 1#32 ∧
    (withRegs [(0, 1#32)]).reg 2 = 0#32 ∧ (withRegs [(0, 1#32), (2, 2#32)]).reg 2 ≠ 0#32 ∧
    RangeAllowed State.reset.prot permRead (0x3FFF#32).toNat (2#32).toNat ∧
    RangeAllowed State.reset.prot permRead (0xBFFF#32).toNat (1#32).toNat ∧
    ¬RangeAllowed State.reset.prot permRead (0xBFFF#32).toNat (2#32).toNat :=
  ⟨by decide, by decide, by decide, allowed_of_check (by decide), allowed_of_check (by decide),
    not_allowed_of_check (by decide)⟩

/-- A zero length; SY7's range, with an answer lined up and with none; SY8's. -/
theorem witness_ReadStoresHostBytes : (withRegs [(0, 2#32)]).reg 0 = 2#32 ∧ (withRegs [(0, 2#32)]).reg 2 = 0#32 ∧
    (withRegs [(0, 2#32), (2, 8#32)]).reg 2 ≠ 0#32 ∧
    RangeAllowed State.reset.prot permWrite (0x4000#32).toNat (8#32).toNat ∧
    (∃ reply rest, (State.reset.lineUpInput [0x61#8]).inputs = reply :: rest) ∧ State.reset.inputs = [] ∧
    ¬RangeAllowed State.reset.prot permWrite (0x0#32).toNat (8#32).toNat :=
  ⟨by decide, by decide, by decide, allowed_of_check (by decide), ⟨_, _, rfl⟩, rfl,
    not_allowed_of_check (by decide)⟩

theorem witness_GetTimeAndSleep : (withRegs [(0, 3#32)]).reg 0 = 3#32 ∧ (withRegs [(0, 4#32)]).reg 0 = 4#32 := by decide

/-- SY13 and SY14: the smallest size that fails and the largest that does not. -/
theorem witness_AllocAnswersOrFails : (withRegs [(0, 5#32), (1, 0x8001#32)]).reg 0 = 5#32 ∧
    State.reset.heap.size.toNat < State.reset.heap.used + ((withRegs [(1, 0x8001#32)]).reg 1).toNat ∧
    State.reset.heap.used + ((withRegs [(1, 0x8000#32)]).reg 1).toNat ≤ State.reset.heap.size.toNat := by decide

/-- HP1's ALLOC, as a state. -/
def allocFirst : State := withRegs [(0, 5#32), (1, 100#32)]

/-- HP1's second ALLOC, after the first. -/
def allocSecond : State := ((allocFirst.setHeapUsed 100).setReg 1 200#32)

/-- HP1. -/
theorem witness_AllocatedBlocksAreDisjoint : ∃ t v, MachineInv allocFirst ∧ allocFirst.reg 0 = 5#32 ∧
    allocFirst.heap.used + (allocFirst.reg 1).toNat ≤ allocFirst.heap.size.toNat ∧
    exec .syscall allocFirst = .next t ∧ allocSecond.heap = t.heap ∧ allocSecond.reg 0 = 5#32 ∧
    allocSecond.heap.used + (allocSecond.reg 1).toNat ≤ allocSecond.heap.size.toNat ∧
    exec .syscall allocSecond = .next v ∧ t.reg 0 = 0x4000#32 ∧ v.reg 0 = 0x4064#32 :=
  ⟨_, _, ⟨reset_inv.1, reset_inv.2, rfl, by decide, rfl, rfl, Nat.zero_le _, List.nodup_nil, Nat.zero_le _,
      PageTable.length_default⟩,
    by decide, by decide, rfl, by decide, by decide, by decide, rfl, by decide, by decide⟩

theorem witness_FreeFileOpsAndUnknownNumbers : (withRegs [(0, 6#32)]).reg 0 = 6#32 ∧
    7 ≤ ((withRegs [(0, 7#32)]).reg 0).toNat ∧ 7 ≤ ((withRegs [(0, 0xFFFFFFFF#32)]).reg 0).toNat := by decide

/-- The reset state gets to the fetch. -/
theorem reset_reaches_fetch : ReachesFetch State.reset := ⟨rfl, by decide⟩

/-- E10. -/
theorem witness_StepRunsDecodedInstruction : ReachesFetch State.reset ∧
    RangeAllowed State.reset.prot permFetch State.reset.pc.toNat 4 ∧
    decode (State.reset.mem.readBytes State.reset.pc.toNat 4) = .ok (.add 0 0 0, []) :=
  ⟨reset_reaches_fetch, allowed_of_check (by decide), by decide⟩

/-- SY20; DBG1. -/
theorem witness_HaltedAndBreakpointStepsChangeNothing : State.reset.halt.halted = true ∧
    atBreak.halted = false ∧ atBreak.dbg.enabled = true ∧ atBreak.pc ∈ atBreak.dbg.breakpoints := by decide

/-- FE3 and FE4; the last word that may be fetched. -/
theorem witness_FetchFaultsOrReadsTheWordAtPc :
    ReachesFetch (State.reset.setPc 0x3FFE#32) ∧ ¬RangeAllowed State.reset.prot permFetch (0x3FFE#32).toNat 4 ∧
    ¬RangeAllowed State.reset.prot permFetch (0x10000#32).toNat 4 ∧
    RangeAllowed State.reset.prot permFetch (0x3FFC#32).toNat 4 :=
  ⟨⟨rfl, by decide⟩, not_allowed_of_check (by decide), not_allowed_of_check (by decide),
    allowed_of_check (by decide)⟩

/-- E11. -/
theorem witness_IllegalOpcodeFaults : ReachesFetch (State.reset.setMem [(3, 0x21#8)]) ∧
    RangeAllowed (State.reset.setMem [(3, 0x21#8)]).prot permFetch (State.reset.setMem [(3, 0x21#8)]).pc.toNat 4 ∧
    0x20 < ((State.reset.setMem [(3, 0x21#8)]).mem.read 3).toNat :=
  ⟨⟨rfl, by decide⟩, allowed_of_check (by decide), by decide⟩

/-- A25's division, and FE2. -/
theorem witness_FaultsEndTheStepAndChangeNothing :
    exec (.div 3 1 2) State.reset = .fault (.divZero 0#32) ∧
    ∃ t, engineStep (State.reset.setPc 0xC000#32) = (.error (.fetchFault 0xC000#32), t) := ⟨rfl, _, rfl⟩

/-- One completed instruction for each status (DBG4, DBG7), and a SLEEP. -/
theorem witness_CompletedStepCountersAndStatus :
    (∃ t, exec .halt State.reset = .next t ∧ t.halted = true) ∧
    (∃ t, exec (.loadi 1 5) (State.reset.setDbg ⟨true, true, [], 0#64, 0#64⟩) = .next t ∧ t.halted = false) ∧
    (∃ t, exec (.loadi 1 5) State.reset = .next t ∧ t.halted = false ∧
      ¬(State.reset.dbg.enabled = true ∧ State.reset.dbg.singleStep = true)) ∧
    (∃ t, exec .syscall (withRegs [(0, 4#32)]) = .next t ∧ (withRegs [(0, 4#32)]).reg 0 = 4#32) :=
  ⟨⟨_, rfl, rfl⟩, ⟨_, rfl, rfl⟩, ⟨_, rfl, rfl, by decide⟩, ⟨_, rfl, by decide⟩⟩

/-- A run that stops at its first step, in each of the three ways, and one that first completes an instruction. -/
theorem witness_RunStopsAtTheFirstOtherStatus :
    (engineStep ((State.reset.setMem [(3, 0x20#8)]).setRunning true)).1 = .halted ∧
    (engineStep ((State.reset.setMem [(3, 0x21#8)]).setRunning true)).1 = .error (.invalidOpcode 0#32) ∧
    (engineStep (atBreak.setRunning true)).1 = .paused ∧
    (∃ path : Nat → State, path 0 = (State.reset.setMem [(7, 0x20#8)]).setRunning true ∧
      (∀ k, k < 1 → engineStep (path k) = (.cont, path (k + 1))) ∧ (engineStep (path 1)).1 = .halted) :=
  ⟨by decide, by decide, by decide,
    fun k => if k = 0 then (State.reset.setMem [(7, 0x20#8)]).setRunning true
      else (engineStep ((State.reset.setMem [(7, 0x20#8)]).setRunning true)).2,
    rfl, fun k hk => by obtain rfl : k = 0 := by omega
                        rfl, by decide⟩

/-- CF5: a jump that is not taken, and an instruction that never jumps. -/
theorem witness_PcAdvancesUnlessModified : (∃ t, exec (.jz 0x40) State.reset = .next t) ∧
    ¬ModifiesPc (.jz 0x40) State.reset ∧ (∃ t, exec (.add 3 1 2) State.reset = .next t) ∧
    ¬ModifiesPc (.add 3 1 2) State.reset :=
  ⟨⟨_, rfl⟩, by simp [ModifiesPc]; rfl, ⟨_, rfl⟩, by simp [ModifiesPc]⟩

theorem witness_OnlyNamedRegistersAreWritten : ∃ t, exec (.add 3 1 2) State.reset = .next t ∧
    (Instr.add 3 1 2).mnemonic ≠ .call ∧ (Instr.add 3 1 2).mnemonic ≠ .ret := ⟨_, rfl, by decide, by decide⟩

theorem witness_OnlyListedInstructionsWriteFlags : (∃ t, exec (.move 1 2) State.reset = .next t) ∧
    (Instr.move 1 2).mnemonic ∉ writesZN ∧ (∃ t, exec (.and 3 1 2) State.reset = .next t) ∧
    (Instr.and 3 1 2).mnemonic ∉ writesCV := ⟨⟨_, rfl⟩, by decide, ⟨_, rfl⟩, by decide⟩

theorem witness_OnlyHaltAndExitHalt :
    (∃ t, exec .halt State.reset = .next t ∧ t.halted ≠ State.reset.halted) ∧
    (∃ t, exec (.move 1 2) State.reset.halt = .next t ∧ State.reset.halt.halted = true) ∧
    (∃ t, exec .syscall (withRegs [(1, 7#32)]) = .next t ∧ t.exitCode ≠ (withRegs [(1, 7#32)]).exitCode) :=
  ⟨⟨_, rfl, by decide⟩, ⟨_, rfl, rfl⟩, ⟨_, rfl, by decide⟩⟩

theorem witness_StepsKeepHostOwnedState : ∃ t, step State.reset = .next t := ⟨_, rfl⟩

theorem witness_UnwritableBytesNeverChange : (∃ t, step State.reset = .next t) ∧
    ¬ByteAllowed State.reset.prot permWrite 0x3FFF ∧ ¬ByteAllowed State.reset.prot permWrite 0x10000 :=
  ⟨⟨_, rfl⟩, fun h => absurd h.2 (by decide), fun h => absurd h.1 (by decide)⟩

theorem witness_CodeBytesConstantUnderDefaultLayout : State.reset.prot = PageTable.default ∧
    (∃ t, Host.Core.run Sys2Proof.core 1 State.reset = .next t) ∧ 0x3FFF < 0x4000 := ⟨rfl, ⟨_, rfl⟩, by decide⟩

/-- Two states that differ in a byte of the Reserved region only. -/
theorem witness_UnreadableBytesInfluenceNothing :
    AgreeOnReadable State.reset (State.reset.setMem [(0xC000, 1#8)]) ∧
      State.reset.setMem [(0xC000, 1#8)] ≠ State.reset := by
  refine ⟨⟨rfl, fun a h => ?_⟩, fun h => absurd (congrArg State.mem h) (by decide)⟩
  have hne : 0xC000 ≠ a := by rintro rfl; exact absurd h.2 (by decide)
  show (if 0xC000 = a then 1#8 else 0#8) = 0#8
  rw [if_neg hne]

/-- The first and last page of each region (R32). -/
theorem witness_ResetValues : State.reset.prot.entry 0 = 0xB#4 ∧ State.reset.prot.entry 63 = 0xB#4 ∧
    State.reset.prot.entry 64 = 0x7#4 ∧ State.reset.prot.entry 191 = 0x7#4 ∧
    State.reset.prot.entry 192 = 0x0#4 ∧ State.reset.prot.entry 223 = 0x0#4 ∧
    State.reset.prot.entry 224 = 0x7#4 ∧ State.reset.prot.entry 255 = 0x7#4 := by decide

/-- The SUB that CMP is compared with. -/
theorem witness_CmpWritesFlagsOfSubOnly : ∃ u, exec (.sub 3 1 2) State.reset = .next u := ⟨_, rfl⟩

theorem witness_StepKeepsInvariant : MachineInv State.reset ∧ ∃ t, step State.reset = .next t := ⟨reset_inv, _, rfl⟩

theorem witness_HostCommandsKeepInvariant : MachineInv State.reset := reset_inv

/-- HO7, HO8, DBG11: arguments just out of range. -/
theorem witness_CommandsFailExactlyOnInvalidArguments : Rejects (.setRegister 16 1#32) State.reset ∧
    Rejects (.setProtection 256 7) State.reset ∧ Rejects (.breakpointRemove 0x20#32) State.reset ∧
    Rejects (.load (List.replicate 4 0#8) 0xFFFE#32) State.reset :=
  ⟨Nat.le_refl 16, Nat.le_refl 256, List.not_mem_nil, not_allowed_of_check (addr := 0xFFFE#32) (by decide)⟩

/-- HO3, HO4 and the last word of memory. -/
theorem witness_LoadNeedsOnlyPresentPages :
    RangeAllowed State.reset.prot permPresent (0#32).toNat (List.replicate 8 1#8).length ∧
    RangeAllowed State.reset.prot permPresent (0x20000#32).toNat ([] : List Byte).length ∧
    RangeAllowed State.reset.prot permPresent (0xFFFC#32).toNat [1#8, 2#8, 3#8, 4#8].length :=
  ⟨allowed_of_check (by decide), allowed_of_check (by decide), allowed_of_check (by decide)⟩

theorem witness_SetProtectionOverwritesOnePage : 0 < 256 ∧ 255 < 256 ∧ (0 : Nat) ≠ 255 := by decide

/-- DBG9, DBG10: an address in the list, one not in it, and a list with one place left. -/
theorem witness_DebuggerAndTimerCommands : 0x10#32 ∈ atBreak.dbg.breakpoints ∧ 0x20#32 ∉ atBreak.dbg.breakpoints ∧
    atBreak.dbg.breakpoints.length < 16 ∧
    0xFF#32 ∉ (List.range 15).map (BitVec.ofNat 32) ∧ ((List.range 15).map (BitVec.ofNat 32)).length < 16 := by decide

/-- HO7 at both ends of the range, and a command that is none of reset, step and run. -/
theorem witness_RegisterCommands : 15 < 16 ∧ 16 ≤ 16 ∧ Command.readTick ≠ .reset ∧ Command.readTick ≠ .step ∧
    (∀ fuel, Command.readTick ≠ .run fuel) := ⟨by decide, by decide, by decide, by decide, fun _ h => nomatch h⟩

/-- HO6, HO5, and ranges that end with the readable and the writable region. -/
theorem witness_MemoryCommandsGoThroughTheCheck :
    RangeAllowed State.reset.prot permRead (0xBFFF#32).toNat 1 ∧
    ¬RangeAllowed State.reset.prot permRead (0xBFFF#32).toNat 2 ∧
    RangeAllowed State.reset.prot permWrite (0xBFFC#32).toNat [1#8, 2#8, 3#8, 4#8].length ∧
    ¬RangeAllowed State.reset.prot permWrite (0#32).toNat [1#8, 2#8, 3#8, 4#8].length :=
  ⟨allowed_of_check (by decide), not_allowed_of_check (by decide), allowed_of_check (by decide),
    not_allowed_of_check (by decide)⟩

theorem witness_InstancesAreIndependent : (0 : Nat) ≠ 1 ∧ 0 < ([some State.reset] : Instances).length := by decide

end Sys2Proof.Tests
end

section
/-! Proofs of the state family (10_state.md): what an instruction and a step can do, said once (`Completion`,
`step_next_cases`), and the claims that follow from it. -/

namespace Sys2Proof.Machine
open Sys2Proof.Machine.Claims

/-! ### Memory changes only on writable bytes (R43, R45) -/

/-- Memory `m` comes from the memory of `s` by one run of bytes, maybe empty, that `s` may write. -/
def AllowedWrite (s : State) (m : Memory) : Prop :=
  ∃ (a : Nat) (bs : List Byte), RangeAllowed s.prot permWrite a bs.length ∧ m = s.mem.writeBytes a bs

theorem allowedWrite_unchanged (s : State) : AllowedWrite s s.mem :=
  ⟨0, [], fun _ hk => absurd hk (Nat.not_lt_zero _), rfl⟩

theorem allowedWrite_storeWord {s : State} {addr : Word} (h : s.canWrite addr 4 = true) (v : Word) :
    AllowedWrite s (s.storeWord addr v).mem :=
  ⟨addr.toNat, bytesOfNat 4 v.toNat, by simpa using (canWrite_iff _ _ _).mp h, rfl⟩

theorem allowedWrite_storeByte {s : State} {addr : Word} (h : s.canWrite addr 1 = true) (v : Word) :
    AllowedWrite s (s.storeByte addr v).mem :=
  ⟨addr.toNat, bytesOfNat 1 (v &&& 0xFF#32).toNat, by simpa using (canWrite_iff _ _ _).mp h, rfl⟩

theorem AllowedWrite.wf {s : State} {m : Memory} (h : AllowedWrite s m) (hs : s.mem.wf) : m.wf := by
  obtain ⟨a, bs, -, rfl⟩ := h
  exact Memory.writeBytes_wf _ _ _ hs

theorem AllowedWrite.inBounds {s : State} {m : Memory} (h : AllowedWrite s m) (hs : s.mem.inBounds) :
    m.inBounds := by
  obtain ⟨a, bs, hr, rfl⟩ := h
  cases bs with
  | nil => exact hs
  | cons b bs => exact Memory.writeBytes_inBounds _ _ _ hs (hr.le_memSize (Nat.succ_pos _))

theorem AllowedWrite.read_of_not_writable {s : State} {m : Memory} (h : AllowedWrite s m) {a : Nat}
    (ha : ¬ByteAllowed s.prot permWrite a) : m.read a = s.mem.read a := by
  obtain ⟨lo, bs, hr, rfl⟩ := h
  refine Memory.read_writeBytes_outside _ _ _ _ ?_
  by_contra hin
  obtain ⟨h1, h2⟩ : lo ≤ a ∧ a < lo + bs.length := by unfold Outside at hin; omega
  refine ha ?_
  have := hr (a - lo) (by omega)
  rwa [Nat.add_sub_cancel' h1] at this

/-! ### What a service of SYSCALL can do (R124 to R134), beside its frame `ServiceFrame` -/

/-- What the service `v` may do to memory, the halted flag, the exit code and the heap. -/
structure ServiceEffect (v : Service) (s t : State) : Prop where
  memory : AllowedWrite s t.mem
  halted : v ≠ .exit → t.halted = s.halted
  staysHalted : s.halted = true → t.halted = true
  exitCode : v ≠ .exit → t.exitCode = s.exitCode
  heapUsed : t.heap.used = s.heap.used ∨
    ∃ n, s.heap.used + n ≤ s.heap.size.toNat ∧ t.heap.used = s.heap.used + align4 n

theorem ServiceEffect.refl (v : Service) (s : State) : ServiceEffect v s s :=
  ⟨allowedWrite_unchanged s, fun _ => rfl, id, fun _ => rfl, .inl rfl⟩

theorem ServiceEffect.setResult {v : Service} {s t : State} (h : ServiceEffect v s t) (r : Word) :
    ServiceEffect v s (t.setResult r) := ⟨h.memory, h.halted, h.staysHalted, h.exitCode, h.heapUsed⟩

theorem sysPrint_effect (s : State) (A : SyscallArgs) : ServiceEffect .print s (sysPrint s Params.default A) := by
  have keep := ServiceEffect.refl .print s
  unfold sysPrint
  split
  · exact keep.setResult _
  · split
    · exact ⟨keep.memory, keep.halted, keep.staysHalted, keep.exitCode, keep.heapUsed⟩
    · exact keep.setResult _

/-- The bytes the host gives to a READ are at most as many as it asks for (R126). -/
theorem length_inputBytes_le (s : State) (len : Nat) : (s.inputBytes len).length ≤ len :=
  List.length_take_le _ _

theorem sysRead_effect (s : State) (A : SyscallArgs) : ServiceEffect .read s (sysRead s Params.default A) := by
  have keep := ServiceEffect.refl .read s
  unfold sysRead
  split
  case isTrue => exact keep.setResult _
  case isFalse =>
    split
    case isFalse => exact keep.setResult _
    case isTrue hw =>
      have hr := (canWrite_iff _ _ _).mp hw
      refine ServiceEffect.setResult ⟨⟨_, _, fun k hk => hr k ?_, rfl⟩, ?_, ?_, ?_, ?_⟩ _
      · exact lt_of_lt_of_le hk (length_inputBytes_le s _)
      all_goals simp

/-- An allocation uses nothing, where it fails, or the request rounded up to a multiple of 4 (R133). -/
theorem Heap.used_alloc (h : Heap) (n : Nat) :
    (h.alloc n).2.used = h.used ∨ h.used + n ≤ h.size.toNat ∧ (h.alloc n).2.used = h.used + align4 n := by
  unfold Heap.alloc
  split
  case isTrue => exact .inl rfl
  case isFalse hf => exact .inr ⟨by simpa [Heap.fails] using hf, rfl⟩

theorem sysAlloc_effect (s : State) (A : SyscallArgs) : ServiceEffect .alloc s (sysAlloc s A) := by
  have keep := ServiceEffect.refl .alloc s
  exact ⟨keep.memory, keep.halted, keep.staysHalted, keep.exitCode,
    (s.heap.used_alloc (s.reg A.first).toNat).imp_right (fun h => ⟨_, h⟩)⟩

theorem runService_effect (v : Service) (s : State) (A : SyscallArgs) :
    ServiceEffect v s (runService v s Params.default A) := by
  have keep := ServiceEffect.refl v s
  cases v with
  | exit => exact ⟨keep.memory, fun h => absurd rfl h, fun _ => rfl, fun h => absurd rfl h, keep.heapUsed⟩
  | print => exact sysPrint_effect s A
  | read => exact sysRead_effect s A
  | sleep => exact ⟨keep.memory, keep.halted, keep.staysHalted, keep.exitCode, keep.heapUsed⟩
  | alloc => exact sysAlloc_effect s A
  | getTime | free | openFile | closeFile | readFile | writeFile => exact keep.setResult _

/-- EXIT has the number 0 and no other (R123, D4). -/
theorem serviceRow_exit {n : Word} {row : SyscallRow} (h : serviceRow Config.syscallMap n = some row)
    (hv : row.service = .exit) : n = 0#32 := by
  have all : ∀ row ∈ Config.syscallMap, row.service = .exit → row.number = 0#32 := by decide
  have hn : row.number = n := by simpa using List.find?_some h
  rw [← hn, all row (List.mem_of_find?_eq_some h) hv]

/-- What the dispatcher does is the effect of some service, which is EXIT only for the number 0. -/
theorem dispatchSyscall_effect (s : State) :
    ∃ v, (v = .exit → s.reg 0 = 0#32) ∧ ServiceEffect v s (dispatchSyscall Config.syscallMap s) := by
  unfold dispatchSyscall
  split
  case h_1 row h => exact ⟨row.service, serviceRow_exit h, runService_effect _ s _⟩
  case h_2 => exact ⟨.openFile, nofun, (ServiceEffect.refl _ s).setResult _⟩

/-! ### What an instruction that completes can do -/

/-- The flags `f` differ from those of `s` only where R25's table lets the instruction write them. -/
def FlagsAsListed (i : Instr) (s : State) (f : Flags) : Prop :=
  (i.mnemonic ∉ writesZN → f = s.flags) ∧ (i.mnemonic ∉ writesCV → f.c = s.flags.c ∧ f.v = s.flags.v)

theorem FlagsAsListed.kept (i : Instr) (s : State) : FlagsAsListed i s s.flags :=
  ⟨fun _ => rfl, fun _ => ⟨rfl, rfl⟩⟩

theorem FlagsAsListed.zn {i : Instr} (hz : writesZN.contains i.mnemonic = true) (s : State) (r : Word) :
    FlagsAsListed i s (flagsZN s.flags r) :=
  ⟨fun hn => absurd (List.contains_iff_mem.mp hz) hn, fun _ => ⟨rfl, rfl⟩⟩

theorem FlagsAsListed.all {i : Instr} (hz : writesZN.contains i.mnemonic = true)
    (hc : writesCV.contains i.mnemonic = true) (s : State) (f : Flags) : FlagsAsListed i s f :=
  ⟨fun hn => absurd (List.contains_iff_mem.mp hz) hn, fun hn => absurd (List.contains_iff_mem.mp hc) hn⟩

/-- Everything an instruction that completes can do: one constructor for each way to end, with what the claims of
10_state.md need to know of it. -/
inductive Completion (i : Instr) (s : State) : State → Prop
  | writesReg (rd : RegIdx) (v : Word) (f : Flags) (hd : destsOf i = [rd]) (hf : FlagsAsListed i s f) :
    Completion i s ((s.setReg rd v).setFlags f).advance
  | writesFlags (f : Flags) (hf : FlagsAsListed i s f) : Completion i s (s.setFlags f).advance
  | stores (m : Memory) (hm : AllowedWrite s m) : Completion i s (s.setMem m).advance
  | jumps (target : Word) (hi : ModifiesPc i s) : Completion i s (s.setPc target)
  | calls (target : Int) (m : Memory) (hi : i = .call target) (hm : AllowedWrite s m) :
    Completion i s (((s.setMem m).setSp (s.sp - 4#32)).setPc (immediate target))
  | returns (hi : i = .ret) : Completion i s ((s.setPc (s.loadWord s.sp)).setSp (s.sp + 4#32))
  | serves (hi : i = .syscall) : Completion i s (dispatchSyscall Config.syscallMap s).advance
  | halts (hi : i = .halt) : Completion i s s.halt.advance

/-- A conditional jump: taken, it modifies the PC; not taken, it only advances (R111). -/
theorem completion_jumpIf {i : Instr} {s : State} {taken : Bool} (target : Int)
    (hi : taken = true → ModifiesPc i s) :
    Completion i s (if taken then s.setPc (immediate target) else s.advance) := by
  split
  case isTrue h => exact .jumps _ (hi h)
  case isFalse => exact .writesFlags s.flags (.kept i s)

/-- What completes, completes in one of the ways of `Completion`. -/
theorem exec_completion {i : Instr} {s t : State} (h : exec i s = .next t) : Completion i s t := by
  cases i with
  | add | sub | mul | neg => cases h; exact .writesReg _ _ _ rfl (.all rfl rfl s _)
  | div | mod =>
    obtain ⟨-, rfl⟩ := (guarded_next_iff _ _ _ _).mp h
    exact .writesReg _ _ _ rfl (.zn rfl s _)
  | and | or | xor | not | shl | shr => cases h; exact .writesReg _ _ _ rfl (.zn rfl s _)
  | load | loadb =>
    obtain ⟨-, rfl⟩ := (guarded_next_iff _ _ _ _).mp h
    exact .writesReg _ _ s.flags rfl (.kept _ s)
  | loadi | move | slt | sle | seq | sne => cases h; exact .writesReg _ _ s.flags rfl (.kept _ s)
  | store =>
    obtain ⟨hw, rfl⟩ := (guarded_next_iff _ _ _ _).mp h
    exact .stores _ (allowedWrite_storeWord hw _)
  | storeb =>
    obtain ⟨hw, rfl⟩ := (guarded_next_iff _ _ _ _).mp h
    exact .stores _ (allowedWrite_storeByte hw _)
  | cmp => cases h; exact .writesFlags _ (.all rfl rfl s _)
  | test => cases h; exact .writesFlags _ (.zn rfl s _)
  | jmp => cases h; exact .jumps _ (.inl ⟨_, rfl⟩)
  | jz target => cases h; exact completion_jumpIf target (fun hz => by simp [ModifiesPc, hz])
  | jnz target => cases h; exact completion_jumpIf target (fun hz => by simpa [ModifiesPc] using hz)
  | jc target => cases h; exact completion_jumpIf target (fun hc => by simp [ModifiesPc, hc])
  | jnc target => cases h; exact completion_jumpIf target (fun hc => by simpa [ModifiesPc] using hc)
  | call target =>
    obtain ⟨hw, rfl⟩ := (guarded_next_iff _ _ _ _).mp h
    exact .calls target _ rfl (allowedWrite_storeWord hw _)
  | ret =>
    obtain ⟨-, rfl⟩ := (guarded_next_iff _ _ _ _).mp h
    exact .returns rfl
  | syscall => cases h; exact .serves rfl
  | halt => cases h; exact .halts rfl

/-- What a completed instruction does to memory is a write of bytes it may write. -/
theorem exec_allowedWrite {i : Instr} {s t : State} (h : exec i s = .next t) : AllowedWrite s t.mem := by
  cases exec_completion h with
  | stores m hm => exact hm
  | calls target m _ hm => exact hm
  | serves =>
    obtain ⟨_, -, effect⟩ := dispatchSyscall_effect s
    exact effect.memory
  | writesReg | writesFlags | jumps | returns | halts => exact allowedWrite_unchanged s

/-- The state that only the host writes is the same: what R29, R31, R33 and R35 name. -/
def SameHostOwned (s t : State) : Prop :=
  t.prot = s.prot ∧ t.running = s.running ∧ t.heap.base = s.heap.base ∧ t.heap.size = s.heap.size ∧
    t.dbg.enabled = s.dbg.enabled ∧ t.dbg.singleStep = s.dbg.singleStep ∧
    t.dbg.breakpoints = s.dbg.breakpoints

theorem SameHostOwned.refl (s : State) : SameHostOwned s s := ⟨rfl, rfl, rfl, rfl, rfl, rfl, rfl⟩

theorem exec_sameHostOwned {i : Instr} {s t : State} (h : exec i s = .next t) : SameHostOwned s t := by
  cases exec_completion h with
  | serves =>
    have frame := dispatchSyscall_frame Config.syscallMap s
    exact ⟨frame.prot, frame.running, frame.heapBase, frame.heapSize, frame.dbgEnabled, frame.dbgSingleStep,
      frame.dbgBreakpoints⟩
  | writesReg | writesFlags | stores | jumps | calls | returns | halts => exact .refl s

/-- SP stays, or moves by one word: down in CALL, up in RET (R117, R118). -/
theorem exec_sp {i : Instr} {s t : State} (h : exec i s = .next t) :
    t.sp = s.sp ∨ (i.mnemonic = .call ∧ t.sp = s.sp - 4#32) ∨ (i.mnemonic = .ret ∧ t.sp = s.sp + 4#32) := by
  cases exec_completion h with
  | calls target m hi => exact .inr (.inl ⟨hi ▸ rfl, rfl⟩)
  | returns hi => exact .inr (.inr ⟨hi ▸ rfl, rfl⟩)
  | serves => exact .inl (dispatchSyscall_frame Config.syscallMap s).sp
  | writesReg | writesFlags | stores | jumps | halts => exact .inl rfl

/-- No instruction writes FP (R21). -/
theorem exec_fp {i : Instr} {s t : State} (h : exec i s = .next t) : t.fp = s.fp := by
  cases exec_completion h with
  | serves => exact (dispatchSyscall_frame Config.syscallMap s).fp
  | writesReg | writesFlags | stores | jumps | calls | returns | halts => rfl

/-- The heap's `used` stays, or grows by a request that fits, rounded up (R133). -/
theorem exec_heapUsed {i : Instr} {s t : State} (h : exec i s = .next t) :
    t.heap.used = s.heap.used ∨
      ∃ n, s.heap.used + n ≤ s.heap.size.toNat ∧ t.heap.used = s.heap.used + align4 n := by
  cases exec_completion h with
  | serves =>
    obtain ⟨_, -, effect⟩ := dispatchSyscall_effect s
    exact effect.heapUsed
  | writesReg | writesFlags | stores | jumps | calls | returns | halts => exact .inl rfl

/-- An instruction writes no general register but its destination (R14). -/
theorem exec_sameRegsBut {i : Instr} {s t : State} (h : exec i s = .next t) : SameRegsBut (destsOf i) s t := by
  cases exec_completion h with
  | writesReg rd v f hd =>
    intro r hr
    rw [hd, List.mem_singleton] at hr
    rw [State.advance_reg, State.setFlags_reg, State.setReg_reg, if_neg hr]
  | serves hi =>
    subst hi
    exact (dispatchSyscall_frame Config.syscallMap s).regs
  | writesFlags | stores | jumps | calls | returns | halts => exact fun _ _ => rfl

/-- An instruction writes only the flags R25's table lists for it. -/
theorem exec_flagsAsListed {i : Instr} {s t : State} (h : exec i s = .next t) : FlagsAsListed i s t.flags := by
  cases exec_completion h with
  | writesReg _ _ f _ hf => exact hf
  | writesFlags f hf => exact hf
  | serves =>
    rw [State.advance_flags, (dispatchSyscall_frame Config.syscallMap s).flags]
    exact .kept i s
  | stores | jumps | calls | returns | halts => exact .kept i s

/-- Only HALT and EXIT touch the halted flag, only EXIT the exit code, and nothing clears the flag (R27, R28). -/
theorem exec_halted_exitCode {i : Instr} {s t : State} (h : exec i s = .next t) :
    (t.halted = s.halted ∨ i = .halt ∨ (i = .syscall ∧ s.reg 0 = 0#32)) ∧
    (s.halted = true → t.halted = true) ∧
    (t.exitCode = s.exitCode ∨ (i = .syscall ∧ s.reg 0 = 0#32)) := by
  cases exec_completion h with
  | serves hi =>
    obtain ⟨v, hv, effect⟩ := dispatchSyscall_effect s
    by_cases he : v = .exit
    · exact ⟨.inr (.inr ⟨hi, hv he⟩), effect.staysHalted, .inr ⟨hi, hv he⟩⟩
    · exact ⟨.inl (effect.halted he), effect.staysHalted, .inl (effect.exitCode he)⟩
  | halts hi => exact ⟨.inr (.inl hi), fun _ => rfl, .inl rfl⟩
  | writesReg | writesFlags | stores | jumps | calls | returns => exact ⟨.inl rfl, id, .inl rfl⟩

/-! ### What a step can do -/

/-- A step that answers next has changed nothing, or is one completed instruction and its count (R137, R138). -/
theorem step_next_cases {s t : State} (h : step s = .next t) :
    t = s ∨ ∃ i u, exec i s = .next u ∧ t = u.retire := by
  rw [step_next s t h]
  rcases engineStep_cases s with ⟨-, e⟩ | ⟨-, -, e⟩ | ⟨f, e⟩ | ⟨i, u, -, -, -, hu, e⟩
  · exact .inl (e ▸ rfl)
  · exact .inl (e ▸ rfl)
  · exact .inl (e ▸ rfl)
  · exact .inr ⟨i, u, hu, e ▸ rfl⟩

theorem step_sameHostOwned {s t : State} (h : step s = .next t) : SameHostOwned s t := by
  rcases step_next_cases h with rfl | ⟨i, u, hu, rfl⟩
  · exact .refl t
  · have kept := exec_sameHostOwned hu
    exact kept

theorem step_allowedWrite {s t : State} (h : step s = .next t) : AllowedWrite s t.mem := by
  rcases step_next_cases h with rfl | ⟨i, u, hu, rfl⟩
  · exact allowedWrite_unchanged t
  · have write := exec_allowedWrite hu
    exact write

/-! ### The default layout (R32) -/

theorem PageTable.entry_replicate_append_left {n p : Nat} (h : p < n) (e : Prot) (rest : PageTable) :
    PageTable.entry (List.replicate n e ++ rest) p = e := by
  simp [PageTable.entry, List.getElem?_append, h]

theorem PageTable.entry_replicate_append_right {n p : Nat} (h : n ≤ p) (e : Prot) (rest : PageTable) :
    PageTable.entry (List.replicate n e ++ rest) p = rest.entry (p - n) := by
  simp [PageTable.entry, List.getElem?_append, Nat.not_lt.mpr h]

theorem PageTable.default_regions : PageTable.default =
    List.replicate 64 0xB#4 ++ (List.replicate 128 0x7#4 ++ (List.replicate 32 0x0#4 ++
      (List.replicate 32 0x7#4 ++ []))) := rfl

theorem PageTable.entry_default_code {p : Nat} (h : p < 64) : PageTable.default.entry p = 0xB#4 := by
  rw [default_regions, entry_replicate_append_left h]

theorem PageTable.entry_default_heap {p : Nat} (h : 64 ≤ p) (h' : p < 192) :
    PageTable.default.entry p = 0x7#4 := by
  rw [default_regions, entry_replicate_append_right h, entry_replicate_append_left (by omega)]

theorem PageTable.entry_default_reserved {p : Nat} (h : 192 ≤ p) (h' : p < 224) :
    PageTable.default.entry p = 0x0#4 := by
  rw [default_regions, entry_replicate_append_right (by omega), entry_replicate_append_right (by omega),
    entry_replicate_append_left (by omega)]

theorem PageTable.entry_default_stack {p : Nat} (h : 224 ≤ p) (h' : p < 256) :
    PageTable.default.entry p = 0x7#4 := by
  rw [default_regions, entry_replicate_append_right (by omega), entry_replicate_append_right (by omega),
    entry_replicate_append_right (by omega), entry_replicate_append_left (by omega)]

/-- The code region of the default layout is not writable (R54, R58). -/
theorem code_not_writable {a : Nat} (ha : a < 0x4000) : ¬ByteAllowed PageTable.default permWrite a := by
  have hp : a / Config.pageSize < 64 := Nat.div_lt_of_lt_mul ha
  rw [byteAllowed_iff, PageTable.entry_default_code hp]
  exact fun h => absurd h.2 (by decide)

/-- A run that answers next begins with a step, and goes on from the state it answers. -/
theorem run_succ_next {M : Host.Core} {n : Nat} {s t : M.State} (h : M.run (n + 1) s = .next t) :
    ∃ u, M.step s = .next u ∧ M.run n u = .next t := by
  unfold Host.Core.run at h
  split at h
  case h_1 u hu => exact ⟨u, hu, h⟩
  all_goals cases h

/-! ### The statements on instructions and steps -/

/-- Settles O47, by induction on the number of steps: no step writes the table or a byte it may not write. -/
theorem codeBytesConstantUnderDefaultLayout : Obligations.CodeBytesConstantUnderDefaultLayout := by
  intro n
  induction n with
  | zero =>
    intro s t hp h
    cases h
    exact ⟨hp, fun _ _ => rfl⟩
  | succ n ih =>
    intro s t hp h
    obtain ⟨u, hu, ht⟩ := run_succ_next h
    obtain ⟨hkept, -⟩ := step_sameHostOwned hu
    obtain ⟨hprot, hread⟩ := ih u t (hkept.trans hp) ht
    refine ⟨hprot, fun a ha => (hread a ha).trans ?_⟩
    exact (step_allowedWrite hu).read_of_not_writable (hp ▸ code_not_writable ha)

/-- A request that fits leaves `used` at most 3 above the heap's size (R133). -/
theorem used_add_align4_le {used size n : Nat} (h : used + n ≤ size) : used + align4 n ≤ size + 3 := by
  unfold align4
  omega

theorem exec_spAligned {i : Instr} {s t : State} (hs : s.sp.toNat % 4 = 0) (h : exec i s = .next t) :
    t.sp.toNat % 4 = 0 := by
  rcases exec_sp h with e | ⟨-, e⟩ | ⟨-, e⟩
  · rw [e, hs]
  · rw [e]; bv_omega
  · rw [e]; bv_omega

theorem exec_heapUsed_le {i : Instr} {s t : State} (hs : s.heap.used ≤ s.heap.size.toNat + 3)
    (h : exec i s = .next t) : t.heap.used ≤ s.heap.size.toNat + 3 := by
  rcases exec_heapUsed h with e | ⟨n, hn, e⟩
  · rwa [e]
  · exact e ▸ used_add_align4_le hn

/-- A completed instruction keeps the invariant: of its parts, only memory, SP and the heap's `used` may change. -/
theorem exec_machineInv {i : Instr} {s t : State} (hs : MachineInv s) (h : exec i s = .next t) : MachineInv t := by
  obtain ⟨hprot, -, hbase, hsize, -, -, hbreak⟩ := exec_sameHostOwned h
  exact {
    memCanonical := (exec_allowedWrite h).wf hs.memCanonical
    memInBounds := (exec_allowedWrite h).inBounds hs.memInBounds
    fpConstant := (exec_fp h).trans hs.fpConstant
    spAligned := exec_spAligned hs.spAligned h
    heapBase := hbase.trans hs.heapBase
    heapSize := hsize.trans hs.heapSize
    heapUsed := hsize ▸ exec_heapUsed_le hs.heapUsed h
    breakpointsDistinct := hbreak ▸ hs.breakpointsDistinct
    breakpointsFew := hbreak ▸ hs.breakpointsFew
    oneEntryPerPage := hprot ▸ hs.oneEntryPerPage }

/-- The two counters are no part of the invariant. -/
theorem MachineInv.retire {s : State} (h : MachineInv s) : MachineInv s.retire := by
  obtain ⟨hwf, hin, hfp, hsp, hbase, hsize, hused, hdistinct, hfew, hpages⟩ := h
  exact ⟨hwf, hin, hfp, hsp, hbase, hsize, hused, hdistinct, hfew, hpages⟩

/-- Settles O51: a step changes nothing, or it is a completed instruction and its count. -/
theorem stepKeepsInvariant : Obligations.StepKeepsInvariant := by
  intro s t hs h
  rcases step_next_cases h with rfl | ⟨i, u, hu, rfl⟩
  · exact hs
  · exact (exec_machineInv hs hu).retire

/-- Settles O41, by the ways an instruction completes: only jumps, CALL and RET do not advance. -/
theorem pcAdvancesUnlessModified : Obligations.PcAdvancesUnlessModified := by
  intro s t i h hm
  cases exec_completion h with
  | jumps target hi => exact absurd hi hm
  | calls target m hi => exact absurd (.inr (.inl ⟨target, hi⟩)) hm
  | returns hi => exact absurd (.inr (.inr (.inl hi))) hm
  | serves =>
    rw [State.advance_pc, (dispatchSyscall_frame Config.syscallMap s).pc]
  | writesReg | writesFlags | stores | halts => rfl

/-- Settles O42, registers, SP and FP, each by its own frame lemma. -/
theorem onlyNamedRegistersAreWritten : Obligations.OnlyNamedRegistersAreWritten := by
  intro s t i h
  refine ⟨exec_sameRegsBut h, fun hcall hret => ?_, exec_fp h⟩
  rcases exec_sp h with e | ⟨hi, -⟩ | ⟨hi, -⟩
  · exact e
  · exact absurd hi hcall
  · exact absurd hi hret

/-- Settles O43, as the flags frame of a completed instruction. -/
theorem onlyListedInstructionsWriteFlags : Obligations.OnlyListedInstructionsWriteFlags :=
  fun _ _ _ h => exec_flagsAsListed h

/-- Settles O44, from what each way to complete does to the flag and the exit code. -/
theorem onlyHaltAndExitHalt : Obligations.OnlyHaltAndExitHalt := by
  intro s t i h
  obtain ⟨hhalted, hstays, hexit⟩ := exec_halted_exitCode h
  exact ⟨hhalted.resolve_left, hstays, hexit.resolve_left⟩

/-- Settles O45, from the frame of a completed instruction. -/
theorem stepsKeepHostOwnedState : Obligations.StepsKeepHostOwnedState := fun _ _ h => step_sameHostOwned h

end Sys2Proof.Machine
end

section
/-! Proofs of the state family: agreement up to unreadable memory, the values after reset, the host's calls. -/

namespace Sys2Proof.Machine
open Sys2Proof.Machine.Claims

/-! ### Agreement up to unreadable memory (R38, R45) -/

/-- The memory `m` reads as the memory of `s` on every byte that `s` may read. -/
def AlikeOnReadable (s : State) (m : Memory) : Prop :=
  ∀ a, ByteAllowed s.prot permRead a → m.read a = s.mem.read a

/-- Agreement in its working form: the second state is the first with another memory. -/
theorem AgreeOnReadable.exists_setMem {s t : State} (h : AgreeOnReadable s t) :
    ∃ m, t = s.setMem m ∧ AlikeOnReadable s m := by
  have rest : t.setMem s.mem = s := h.rest
  refine ⟨t.mem, ?_, h.bytes⟩
  calc t = (t.setMem s.mem).setMem t.mem := rfl
    _ = s.setMem t.mem := by rw [rest]

/-- What may be fetched may be read (R43: a fetch requires R). -/
theorem RangeAllowed.read_of_fetch {t : PageTable} {a n : Nat} (h : RangeAllowed t permFetch a n) :
    RangeAllowed t permRead a n := by
  have entry : ∀ e : Prot, e &&& (Config.protP ||| permFetch) = Config.protP ||| permFetch →
      e &&& (Config.protP ||| permRead) = Config.protP ||| permRead := by decide
  exact fun k hk => ⟨(h k hk).1, entry _ (h k hk).2⟩

/-- Two outcomes of an instruction agree: next states up to unreadable memory, or one fault. -/
def OutcomesAgree (r r' : Host.Outcome State Fault Refusal) : Prop :=
  match r, r' with
  | .next s, .next t => AgreeOnReadable s t
  | r, r' => r' = r

/-- One check with one answer, and states that agree where it holds, give outcomes that agree. -/
theorem guarded_agree {ok : Bool} {f : Fault} {s t : State} (h : ok = true → AgreeOnReadable s t) :
    OutcomesAgree (guarded ok f s) (guarded ok f t) := by
  cases ok with
  | true => exact h rfl
  | false => exact rfl

section
variable {s : State} {m : Memory} (hm : AlikeOnReadable s m)
include hm

/-- A readable range holds the same bytes in both memories. -/
theorem readBytes_agree {a n : Nat} (h : RangeAllowed s.prot permRead a n) :
    m.readBytes a n = s.mem.readBytes a n :=
  Memory.readBytes_congr _ _ _ _ (fun k hk => hm _ (h k hk))

/-- The same bytes written at the same address keep two memories alike where they were. -/
theorem writeBytes_agree (lo : Nat) (bs : List Byte) :
    AlikeOnReadable (s.setMem (s.mem.writeBytes lo bs)) (m.writeBytes lo bs) := by
  intro a ha
  rw [State.setMem_mem, Memory.read_writeBytes, Memory.read_writeBytes, hm a ha]

theorem loadWord_agree {addr : Word} (h : s.canRead addr 4 = true) : (s.setMem m).loadWord addr = s.loadWord addr := by
  simp only [State.loadWord, State.setMem_mem, Memory.readNat, readBytes_agree hm ((canRead_iff _ _ _).mp h)]

theorem loadByte_agree {addr : Word} (h : s.canRead addr 1 = true) : (s.setMem m).loadByte addr = s.loadByte addr := by
  simp only [State.loadByte, State.setMem_mem, Memory.readNat, readBytes_agree hm ((canRead_iff _ _ _).mp h)]

theorem fetchBytes_agree (h : s.canFetch = true) : (s.setMem m).fetchBytes = s.fetchBytes :=
  readBytes_agree hm ((canFetch_iff s).mp h).read_of_fetch

theorem sysPrint_agree (A : SyscallArgs) :
    AgreeOnReadable (sysPrint s Params.default A) (sysPrint (s.setMem m) Params.default A) := by
  have check : ∀ addr n, (s.setMem m).canRead addr n = s.canRead addr n := fun _ _ => rfl
  unfold sysPrint
  simp only [State.setMem_reg, check]
  split
  · exact ⟨rfl, hm⟩
  · split
    case isTrue hr =>
      rw [State.setMem_mem, readBytes_agree hm ((canRead_iff _ _ _).mp hr)]
      exact ⟨rfl, hm⟩
    case isFalse => exact ⟨rfl, hm⟩

theorem sysRead_agree (A : SyscallArgs) :
    AgreeOnReadable (sysRead s Params.default A) (sysRead (s.setMem m) Params.default A) := by
  have check : ∀ addr n, (s.setMem m).canWrite addr n = s.canWrite addr n := fun _ _ => rfl
  have bytes : ∀ n, (s.setMem m).inputBytes n = s.inputBytes n := fun _ => rfl
  have consumed : (s.setMem m).consumeReply = s.consumeReply.setMem m := by
    unfold State.consumeReply
    rw [State.setMem_inputs]
    split <;> rfl
  unfold sysRead
  simp only [State.setMem_reg, check, bytes, consumed]
  split
  · exact ⟨rfl, hm⟩
  · split
    · refine ⟨rfl, ?_⟩
      simpa [State.setResult, AlikeOnReadable] using writeBytes_agree hm _ _
    · exact ⟨rfl, hm⟩

theorem runService_agree (v : Service) (A : SyscallArgs) :
    AgreeOnReadable (runService v s Params.default A) (runService v (s.setMem m) Params.default A) := by
  cases v with
  | print => exact sysPrint_agree hm A
  | read => exact sysRead_agree hm A
  | exit | getTime | sleep | alloc | free | openFile | closeFile | readFile | writeFile => exact ⟨rfl, hm⟩

theorem dispatchSyscall_agree (map : SyscallMap) :
    AgreeOnReadable (dispatchSyscall map s) (dispatchSyscall map (s.setMem m)) := by
  unfold dispatchSyscall
  rw [State.setMem_reg]
  split
  case h_1 row _ => exact runService_agree hm row.service row.args
  case h_2 => exact ⟨rfl, hm⟩

/-- A jump is decided by the flags, which memory does not reach. -/
theorem jumpIf_agree (taken : Bool) (target : Word) :
    AgreeOnReadable (if taken then s.setPc target else s.advance)
      (if taken then (s.setMem m).setPc target else (s.setMem m).advance) := by
  split <;> exact ⟨rfl, hm⟩

/-- An instruction does the same on two memories that read alike on readable bytes. -/
theorem exec_agree (i : Instr) : OutcomesAgree (exec i s) (exec i (s.setMem m)) := by
  cases i with
  | add | sub | mul | neg | and | or | xor | not | shl | shr | loadi | move | cmp | test | slt | sle | seq | sne
  | jmp | halt => exact ⟨rfl, hm⟩
  | div | mod => exact guarded_agree fun _ => ⟨rfl, hm⟩
  | load rd rs1 rs2 =>
    rw [exec_load, exec_load]
    refine guarded_agree fun h => ?_
    have value : (s.setMem m).loadWord ((s.setMem m).ea rs1 rs2) = s.loadWord (s.ea rs1 rs2) := loadWord_agree hm h
    rw [value]
    exact ⟨rfl, hm⟩
  | loadb rd rs1 rs2 =>
    rw [exec_loadb, exec_loadb]
    refine guarded_agree fun h => ?_
    have value : (s.setMem m).loadByte ((s.setMem m).ea rs1 rs2) = s.loadByte (s.ea rs1 rs2) := loadByte_agree hm h
    rw [value]
    exact ⟨rfl, hm⟩
  | store | storeb | call => exact guarded_agree fun _ => ⟨rfl, writeBytes_agree hm _ _⟩
  | jz target => exact jumpIf_agree hm s.flags.z _
  | jnz target => exact jumpIf_agree hm (!s.flags.z) _
  | jc target => exact jumpIf_agree hm s.flags.c _
  | jnc target => exact jumpIf_agree hm (!s.flags.c) _
  | ret =>
    rw [exec_ret, exec_ret]
    refine guarded_agree fun h => ?_
    rw [State.setMem_sp, loadWord_agree hm h]
    exact ⟨rfl, hm⟩
  | syscall =>
    have h := dispatchSyscall_agree hm Config.syscallMap
    exact ⟨congrArg State.advance h.rest, h.bytes⟩

/-- The steps of two such states have one status and agree afterwards, where the instruction does. -/
theorem executeDecoded_agree (i : Instr) :
    (executeDecoded i (s.setMem m)).1 = (executeDecoded i s).1 ∧
      AgreeOnReadable (executeDecoded i s).2 (executeDecoded i (s.setMem m)).2 := by
  have outcomes := exec_agree hm i
  unfold executeDecoded
  rw [execWith_default, execWith_default]
  cases hs : exec i s with
  | next u =>
    cases ht : exec i (s.setMem m) with
    | next v =>
      rw [hs, ht] at outcomes
      obtain ⟨m', rfl, hm'⟩ := AgreeOnReadable.exists_setMem outcomes
      exact ⟨rfl, rfl, hm'⟩
    | fault f => rw [hs, ht] at outcomes; cases outcomes
    | refused r => rw [hs, ht] at outcomes; cases outcomes
  | fault f =>
    rw [hs] at outcomes
    rw [show exec i (s.setMem m) = .fault f from outcomes]
    exact ⟨rfl, rfl, hm⟩
  | refused r => exact absurd hs (exec_ne_refused i s r)
end

/-- Settles O48: what a step reads, to fetch, load, pop or print, it may read. -/
theorem unreadableBytesInfluenceNothing : Obligations.UnreadableBytesInfluenceNothing := by
  intro s t h
  obtain ⟨m, rfl, hm⟩ := h.exists_setMem
  have atBreak : (s.setMem m).atBreakpoint = s.atBreakpoint := rfl
  have check : (s.setMem m).canFetch = s.canFetch := rfl
  unfold engineStep
  rw [State.setMem_halted, atBreak, check]
  split
  · exact ⟨rfl, h⟩
  · split
    · exact ⟨rfl, h⟩
    · split
      case isFalse => exact ⟨rfl, h⟩
      case isTrue hf =>
        rw [fetchBytes_agree hm hf]
        split
        case h_1 i _ _ => exact executeDecoded_agree hm i
        case h_2 => exact ⟨rfl, h⟩

/-! ### Reset (R37) -/

/-- Settles O50, part by part: memory and breakpoints are empty, the rest is the default values. -/
theorem invariantHoldsAtReset : Obligations.InvariantHoldsAtReset where
  memCanonical := Memory.nil_wf
  memInBounds := fun _ h => absurd h List.not_mem_nil
  fpConstant := rfl
  spAligned := by decide
  heapBase := rfl
  heapSize := rfl
  heapUsed := Nat.zero_le _
  breakpointsDistinct := List.nodup_nil
  breakpointsFew := Nat.zero_le _
  oneEntryPerPage := PageTable.length_default

/-- Every general register is 0 after reset (R15). -/
theorem reset_reg (r : RegIdx) : State.reset.reg r = 0#32 := Vector.getElem_replicate r.isLt

/-- Settles O49: each value of R37, the protection table by its regions. -/
theorem resetValues : Obligations.ResetValues :=
  ⟨reset_reg, rfl, rfl, rfl, rfl, rfl, rfl, rfl, fun _ => rfl,
    fun _ => PageTable.entry_default_code, fun _ => PageTable.entry_default_heap,
    fun _ => PageTable.entry_default_reserved, fun _ => PageTable.entry_default_stack, rfl, rfl, rfl⟩

/-! ### The host's calls on several VMs (R11, R156) -/

/-- A call that names a VM leaves every other one (R11). -/
theorem performCall_command_other {h k : Nat} (hk : k ≠ h) (c : Command) (vms : Instances) :
    (performCall (.command h c) vms).2[k]? = vms[k]? := by
  simp only [performCall]
  split
  · exact List.getElem?_set_ne hk.symm
  · rfl

theorem performCall_destroy_other {h k : Nat} (hk : k ≠ h) (vms : Instances) :
    (performCall (.destroy h) vms).2[k]? = vms[k]? := by
  simp only [performCall]
  split
  · exact List.getElem?_set_ne hk.symm
  · rfl

/-- Create adds a VM in the reset state after those there are (R156, D41). -/
theorem performCall_create (vms : Instances) :
    performCall .create vms = (.created vms.length, vms ++ [some State.reset]) := rfl

/-- Settles O60, since a call on one index sets at most that index, and create appends. -/
theorem instancesAreIndependent : Obligations.InstancesAreIndependent := by
  intro vms
  refine ⟨fun h k c hk => performCall_command_other hk c vms, fun h k hk => performCall_destroy_other hk vms, ?_⟩
  rw [performCall_create]
  exact ⟨fun k hk => List.getElem?_append_left hk, rfl, List.getElem?_concat_length⟩

end Sys2Proof.Machine
end

section
/-! Proofs of the memory family (20_memory.md): the fetch of a step that reaches it, and the bytes no step may write. -/

namespace Sys2Proof.Machine
open Sys2Proof.Machine.Claims

/-! ### The fetch (R44, R137) -/

/-- The four bytes at pc decode as the word `MemRead(pc, 4)` does (R44, R59), with nothing left over. -/
theorem decode_fetchBytes (s : State) : decode s.fetchBytes = (decodeWord (s.loadWord s.pc)).map (·, []) := by
  have len : s.fetchBytes.length = 4 := Memory.length_readBytes _ _ _
  have word : wordOfBytes s.fetchBytes = s.loadWord s.pc := rfl
  rw [decode_default _ len.ge, ← len, List.take_length, List.drop_length, word]
  cases decodeWord (s.loadWord s.pc) <;> rfl

section
variable {s : State} (hs : ReachesFetch s)
include hs

/-- Past the two tests there is no breakpoint to pause at (R149). -/
theorem atBreakpoint_eq_false_of_reachesFetch : s.atBreakpoint = false := by
  rw [State.atBreakpoint_default, ← Bool.not_eq_true, Bool.and_eq_true, List.contains_iff_mem]
  exact hs.2

theorem engineStep_of_not_canFetch (hf : s.canFetch = false) :
    engineStep s = (.error (.fetchFault s.pc), s) := by
  simp [engineStep, hs.1, atBreakpoint_eq_false_of_reachesFetch hs, hf]

theorem engineStep_of_decodeWord_ok (hf : s.canFetch = true) {i : Instr}
    (hi : decodeWord (s.loadWord s.pc) = .ok i) : engineStep s = executeDecoded i s := by
  simp [engineStep, hs.1, atBreakpoint_eq_false_of_reachesFetch hs, hf, decode_fetchBytes, hi, Except.map]

theorem engineStep_of_decodeWord_error (hf : s.canFetch = true) {e : DecodeReject}
    (he : decodeWord (s.loadWord s.pc) = .error e) : engineStep s = (.error (.invalidOpcode s.pc), s) := by
  simp [engineStep, hs.1, atBreakpoint_eq_false_of_reachesFetch hs, hf, decode_fetchBytes, he, Except.map]
end

/-! ### The statements on memory -/

/-- Settles O36: the check decides between the fault and the fetch, and the fetched bytes decode as their word. -/
theorem fetchFaultsOrReadsTheWordAtPc : Obligations.FetchFaultsOrReadsTheWordAtPc := by
  intro s hs
  rw [← canFetch_iff]
  refine ⟨fun hf => engineStep_of_not_canFetch hs (Bool.eq_false_of_not_eq_true hf), fun hf => ?_⟩
  have word : BitVec.ofNat 32 (s.mem.readNat s.pc.toNat 4) = s.loadWord s.pc := rfl
  rw [word]
  split
  case h_1 i hi => exact engineStep_of_decodeWord_ok hs hf hi
  case h_2 e he => exact engineStep_of_decodeWord_error hs hf he

/-- Settles O46: a step writes at most one run of bytes that it may write, and this byte is in none. -/
theorem unwritableBytesNeverChange : Obligations.UnwritableBytesNeverChange :=
  fun _ _ _ h ha => (step_allowedWrite h).read_of_not_writable ha

end Sys2Proof.Machine
end

section
/-! Proofs of the encoding family (30_encoding.md): the fields of an encoded word, the round trips, the legal opcodes. -/

namespace Sys2Proof
open Sys2Proof.Laws.OpcodePlaced (encodeR_opcode encodeI_opcode encodeJ_opcode)
open Sys2Proof.Machine (immediate immediate_toInt length_bytesOfNat wordOfBytes_bytesOfNat usedBits)

/-! ### The fields of what the encoders write (R75, R76) -/

/-- A value put at a place of a word is what stands there. -/
theorem extractLsb'_placed {n lo : Nat} (v : BitVec n) (h : lo + n ≤ 32) :
    (v.setWidth 32 <<< lo).extractLsb' lo n = v := by
  ext k hk
  have : lo + k < 32 := by omega
  simp [this, BitVec.getLsbD_eq_getElem hk]

/-- A value put at another place of a word leaves 0. -/
theorem extractLsb'_placed_apart {n lo n' lo' : Nat} (v : BitVec n) (h : lo' + n' ≤ lo ∨ lo + n ≤ lo') :
    (v.setWidth 32 <<< lo).extractLsb' lo' n' = 0#n' := by
  ext k hk
  rcases h with h | h
  · simp [show lo' + k < lo by omega]
  · simp [BitVec.getLsbD_of_ge v (lo' + k - lo) (by omega)]

theorem encodeR_rd (op rd rs1 rs2 : Nat) : (decodeFields (encodeR op rd rs1 rs2)).rd = Fin.ofNat 16 rd := by
  simp (disch := decide) only [decodeFields, regField, encodeR, BitVec.extractLsb'_or, extractLsb'_placed,
    extractLsb'_placed_apart, BitVec.zero_or, BitVec.or_zero]
  rfl

theorem encodeR_rs1 (op rd rs1 rs2 : Nat) : (decodeFields (encodeR op rd rs1 rs2)).rs1 = Fin.ofNat 16 rs1 := by
  simp (disch := decide) only [decodeFields, regField, encodeR, BitVec.extractLsb'_or, extractLsb'_placed,
    extractLsb'_placed_apart, BitVec.zero_or, BitVec.or_zero]
  rfl

theorem encodeR_rs2 (op rd rs1 rs2 : Nat) : (decodeFields (encodeR op rd rs1 rs2)).rs2 = Fin.ofNat 16 rs2 := by
  simp (disch := decide) only [decodeFields, regField, encodeR, BitVec.extractLsb'_or, extractLsb'_placed,
    extractLsb'_placed_apart, BitVec.zero_or, BitVec.or_zero]
  rfl

theorem encodeI_rd (op rd : Nat) (imm : Int) : (decodeFields (encodeI op rd imm)).rd = Fin.ofNat 16 rd := by
  simp (disch := decide) only [decodeFields, regField, encodeI, BitVec.extractLsb'_or, extractLsb'_placed,
    extractLsb'_placed_apart, BitVec.zero_or, BitVec.or_zero]
  rfl

theorem encodeI_imm16 (op rd : Nat) (imm : Int) : (decodeFields (encodeI op rd imm)).imm16 = BitVec.ofInt 16 imm := by
  simp (disch := decide) only [decodeFields, encodeI, BitVec.extractLsb'_or, extractLsb'_placed,
    extractLsb'_placed_apart, BitVec.zero_or, BitVec.or_zero]

theorem encodeJ_imm24 (op : Nat) (imm : Int) : (decodeFields (encodeJ op imm)).imm24 = BitVec.ofInt 24 imm := by
  simp (disch := decide) only [decodeFields, encodeJ, BitVec.extractLsb'_or, extractLsb'_placed,
    extractLsb'_placed_apart, BitVec.zero_or, BitVec.or_zero]

/-! ### The ranges of the immediates (R65, R66) -/

theorem imm16InRange_iff (v : Int) : imm16InRange v = true ↔ -32768 ≤ v ∧ v ≤ 32767 := by simp [imm16InRange]

theorem imm24InRange_iff (v : Int) : imm24InRange v = true ↔ -8388608 ≤ v ∧ v ≤ 8388607 := by simp [imm24InRange]

/-- A 16-bit field holds every number in its range, and no other (R65). -/
theorem toInt_ofInt_of_imm16InRange {v : Int} (h : imm16InRange v = true) : (BitVec.ofInt 16 v).toInt = v := by
  rw [imm16InRange_iff] at h
  exact BitVec.toInt_ofInt_eq_self (by decide) (by omega) (by omega)

theorem toInt_ofInt_of_imm24InRange {v : Int} (h : imm24InRange v = true) : (BitVec.ofInt 24 v).toInt = v := by
  rw [imm24InRange_iff] at h
  exact BitVec.toInt_ofInt_eq_self (by decide) (by omega) (by omega)

theorem imm16InRange_toInt (v : BitVec 16) : imm16InRange v.toInt = true := by
  have low := v.le_toInt
  have high := v.toInt_lt
  rw [imm16InRange_iff]
  omega

theorem imm24InRange_toInt (v : BitVec 24) : imm24InRange v.toInt = true := by
  have low := v.le_toInt
  have high := v.toInt_lt
  rw [imm24InRange_iff]
  omega

/-- The immediate of a well-formed instruction fits 24 bits, LOADI's too. -/
theorem imm24InRange_of_wellFormed {i : Instr} (hi : i.wellFormed = true) {v : Int} (hv : i.operands.imm = some v) :
    imm24InRange v = true := by
  cases i
  case loadi d u =>
    cases hv
    have small := (imm16InRange_iff v).mp hi
    exact (imm24InRange_iff v).mpr (by omega)
  case jmp | jz | jnz | jc | jnc | call => cases hv; exact hi
  all_goals cases hv

/-- Settles O2: each field of an encoded word is what was put there, and a signed number in a field's range comes back
from its sign extension. -/
theorem rawFieldsRoundTrip : Obligations.RawFieldsRoundTrip := by
  intro op rd rs1 rs2 hop hrd hrs1 hrs2
  refine ⟨⟨?_, ?_, ?_, ?_⟩, fun imm hlo hhi => ⟨?_, ?_, ?_⟩, fun j hlo hhi => ⟨?_, ?_⟩⟩
  · rw [encodeR_opcode]; exact Nat.mod_eq_of_lt hop
  · rw [encodeR_rd]; exact Nat.mod_eq_of_lt hrd
  · rw [encodeR_rs1]; exact Nat.mod_eq_of_lt hrs1
  · rw [encodeR_rs2]; exact Nat.mod_eq_of_lt hrs2
  · rw [encodeI_opcode]; exact Nat.mod_eq_of_lt hop
  · rw [encodeI_rd]; exact Nat.mod_eq_of_lt hrd
  · rw [encodeI_imm16, ← immediate_toInt, toInt_ofInt_of_imm16InRange ((imm16InRange_iff imm).mpr ⟨hlo, hhi⟩), immediate]
  · rw [encodeJ_opcode]; exact Nat.mod_eq_of_lt hop
  · rw [encodeJ_imm24, ← immediate_toInt, toInt_ofInt_of_imm24InRange ((imm24InRange_iff j).mpr (by omega)), immediate]

/-! ### The instruction that fields make (R68, R69) -/

/-- The fields of a word hold an instruction's operands where a row of the opcode map places them. -/
structure Fields.Hold (f : Fields) (row : OpcodeRow) (o : Operands) : Prop where
  reg : ∀ e ∈ o.placed row, f.reg e.1 = e.2
  imm : ∀ v, o.imm = some v → f.imm row.format = v

theorem Fields.mnemonic_build (f : Fields) (row : OpcodeRow) : (f.build row).mnemonic = row.mnemonic := by
  unfold Fields.build
  cases row.mnemonic <;> rfl

/-- What a row makes of a word's fields has its operands from them. -/
theorem Fields.hold_build (f : Fields) (row : OpcodeRow) : f.Hold row (f.build row).operands := by
  unfold Fields.build
  constructor <;> cases row.mnemonic <;> simp [Instr.operands, Operands.placed]

/-- An instruction is what its row makes of the fields that hold its operands. -/
theorem Fields.build_of_hold {f : Fields} {row : OpcodeRow} {i : Instr} (hm : row.mnemonic = i.mnemonic)
    (h : f.Hold row i.operands) : f.build row = i := by
  obtain ⟨hreg, himm⟩ := h
  unfold Fields.build
  rw [hm]
  cases i <;> simp_all [Instr.operands, Operands.placed, Instr.mnemonic]

/-! ### The word that a row lays out (R69, R75) -/

/-- Where no key stands twice, the search for an element's key finds the element. -/
theorem find?_key_eq_some {α β : Type} [BEq β] [LawfulBEq β] {key : α → β} {l : List α} (hd : (l.map key).Nodup)
    {x : α} (hx : x ∈ l) : l.find? (fun y => key y == key x) = some x := by
  have found : (l.find? (fun y => key y == key x)).isSome = true := List.find?_isSome.mpr ⟨x, hx, by simp⟩
  obtain ⟨y, hy⟩ := Option.isSome_iff_exists.mp found
  have same : key y = key x := by simpa using List.find?_some hy
  rwa [List.inj_on_of_nodup_map hd (List.mem_of_find?_eq_some hy) hx same] at hy

/-- Where no field is used twice, each holds the register placed in it. -/
theorem inField_of_mem {placed : List (RegField × RegIdx)} (hd : (placed.map (·.1)).Nodup) {e : RegField × RegIdx}
    (he : e ∈ placed) : inField placed e.1 = e.2.val := by
  rw [inField, find?_key_eq_some hd he]

/-- What a row must offer to carry a well-formed instruction. -/
theorem OpcodeRow.carries_iff {row : OpcodeRow} {i : Instr} (hi : i.wellFormed = true) :
    row.carries i = true ↔ ((i.operands.placed row).map (·.1)).Nodup ∧
      (∀ e ∈ i.operands.placed row, e.1 ∈ row.format.registers) ∧ row.format.holds i.operands.imm = true := by
  simp [OpcodeRow.carries, hi, and_assoc]

theorem opcode_wordOf (i : Instr) (row : OpcodeRow) : (decodeFields (i.wordOf row)).opcode = row.number := by
  have number : BitVec.ofNat 8 row.number.toNat = row.number := by simp
  unfold Instr.wordOf
  cases row.format
  case r => exact (encodeR_opcode _ _ _ _).trans number
  case i => exact (encodeI_opcode _ _ _).trans number
  case j => exact (encodeJ_opcode _ _).trans number

/-- A register field that the row's format offers holds what is placed in it. -/
theorem reg_wordOf (i : Instr) {row : OpcodeRow} {field : RegField} (h : field ∈ row.format.registers) :
    (decodeFields (i.wordOf row)).reg field = Fin.ofNat 16 (inField (i.operands.placed row) field) := by
  unfold Instr.wordOf
  cases hf : row.format <;> rw [hf] at h
  case r =>
    cases field
    case rd => exact encodeR_rd _ _ _ _
    case rs1 => exact encodeR_rs1 _ _ _ _
    case rs2 => exact encodeR_rs2 _ _ _ _
  case i =>
    obtain rfl : field = .rd := List.mem_singleton.mp h
    exact encodeI_rd _ _ _
  case j => exact absurd h List.not_mem_nil

/-- The immediate field of a format that holds an instruction's immediate gives it back. -/
theorem imm_wordOf {i : Instr} (hi : i.wellFormed = true) {row : OpcodeRow}
    (hh : row.format.holds i.operands.imm = true) {v : Int} (hv : i.operands.imm = some v) :
    (decodeFields (i.wordOf row)).imm row.format = v := by
  unfold Instr.wordOf
  rw [hv] at hh ⊢
  cases hf : row.format <;> rw [hf] at hh
  case r => cases hh
  case i => exact (congrArg BitVec.toInt (encodeI_imm16 _ _ _)).trans (toInt_ofInt_of_imm16InRange hh)
  case j =>
    exact (congrArg BitVec.toInt (encodeJ_imm24 _ _)).trans
      (toInt_ofInt_of_imm24InRange (imm24InRange_of_wellFormed hi hv))

/-- The fields of the word that a row lays out hold the operands of the instruction it carries. -/
theorem hold_wordOf {i : Instr} (hi : i.wellFormed = true) {row : OpcodeRow} (hc : row.carries i = true) :
    (decodeFields (i.wordOf row)).Hold row i.operands := by
  obtain ⟨nodup, offered, holds⟩ := (OpcodeRow.carries_iff hi).mp hc
  refine ⟨fun e he => ?_, fun v hv => imm_wordOf hi holds hv⟩
  rw [reg_wordOf i (offered e he), inField_of_mem nodup he, Fin.ofNat_val_eq_self]

/-! ### The round trips (R76) -/

theorem decodeWith_eq_ok {map : OpcodeMap} {w : Word} {row : OpcodeRow}
    (h : map.rowOf (decodeFields w).opcode = some row) : decodeWith map w = .ok ((decodeFields w).build row) := by
  simp only [decodeWith, h]

theorem encodeWith_eq_some_iff {map : OpcodeMap} {i : Instr} {w : Word} :
    encodeWith map i = some w ↔
      ∃ row, map.rowFor i.mnemonic = some row ∧ row.carries i = true ∧ i.wordOf row = w := by
  unfold encodeWith
  cases map.rowFor i.mnemonic <;> simp

/-- Under any map without a number twice: the number finds the row, and the row makes the instruction of the fields. -/
theorem decodeWith_of_encodeWith {map : OpcodeMap} {i : Instr} {w : Word} (hi : i.wellFormed = true)
    (hd : (map.map (·.number)).Nodup) (h : encodeWith map i = some w) : decodeWith map w = .ok i := by
  obtain ⟨row, hrow, hc, rfl⟩ := encodeWith_eq_some_iff.mp h
  have mem : row ∈ map := List.mem_of_find?_eq_some hrow
  have mnemonic : row.mnemonic = i.mnemonic := by simpa using List.find?_some hrow
  have found : map.rowOf (decodeFields (i.wordOf row)).opcode = some row := by
    rw [opcode_wordOf]
    exact find?_key_eq_some hd mem
  rw [decodeWith_eq_ok found, Fields.build_of_hold mnemonic (hold_wordOf hi hc)]

/-- The spec's map gives the numbers 0x00 to 0x20, each once, in order (R69, R70, D1). -/
theorem numbers_default : Config.opcodeMap.map (·.number) = (List.range 33).map (BitVec.ofNat 8) := by decide

theorem nodup_numbers_default : (Config.opcodeMap.map (·.number)).Nodup := by decide

theorem encodeWith_default (i : Instr) : encodeWith Config.opcodeMap i = some (encodeWord i) :=
  encodeWith_eq_some_iff.mpr ⟨i.mnemonic.row, rowFor_default i.mnemonic, carries_default i, (encodeWord_default i).symm⟩

/-- Settles O4: the round trip of any map without a number twice, and the spec's map among them. -/
theorem roundTripUnderEveryOpcodeMap : Obligations.RoundTripUnderEveryOpcodeMap :=
  ⟨fun _ _ _ hi hd h => decodeWith_of_encodeWith hi hd h, nodup_numbers_default, encodeWith_default⟩

theorem decodeWord_encodeWord {i : Instr} (hi : i.wellFormed = true) : decodeWord (encodeWord i) = .ok i := by
  rw [decodeWord_default]
  exact decodeWith_of_encodeWith hi nodup_numbers_default (encodeWith_default i)

/-- Settles O3: the four bytes hold the instruction's word, and the word decodes to it. -/
theorem decodeEncodeRoundTrip : Obligations.DecodeEncodeRoundTrip := by
  intro i hi rest
  have len : (encode i).length = 4 := length_bytesOfNat _ _ _
  have word : wordOfBytes (encode i) = encodeWord i := wordOfBytes_bytesOfNat _
  rw [decode_default _ (by rw [List.length_append]; omega), List.take_left' len, List.drop_left' len, word,
    decodeWord_encodeWord hi]

/-! ### The legal opcodes (R70, R71) -/

theorem OpcodeMap.rowOf_eq_none_iff {map : OpcodeMap} {opcode : BitVec 8} :
    map.rowOf opcode = none ↔ opcode ∉ map.map (·.number) := by
  simp [OpcodeMap.rowOf, List.find?_eq_none]

/-- The spec's map lists a number exactly when it is at most 0x20 (R70, R71). -/
theorem mem_numbers_default {opcode : BitVec 8} :
    opcode ∈ Config.opcodeMap.map (·.number) ↔ opcode.toNat ≤ 0x20 := by
  rw [numbers_default, List.mem_map]
  constructor
  · rintro ⟨n, hn, rfl⟩
    have := List.mem_range.mp hn
    rw [BitVec.toNat_ofNat]
    omega
  · exact fun h => ⟨opcode.toNat, List.mem_range.mpr (by omega), by simp⟩

/-- Each row of the spec's map is the one row of its mnemonic (R69). -/
theorem row_mnemonic_of_mem : ∀ row ∈ Config.opcodeMap, row.mnemonic.row = row := by decide

/-- The row that the spec's map gives a number has this number and is its mnemonic's. -/
theorem rowOf_default {opcode : BitVec 8} {row : OpcodeRow} (h : Config.opcodeMap.rowOf opcode = some row) :
    row.mnemonic.row = row ∧ row.number = opcode :=
  ⟨row_mnemonic_of_mem row (List.mem_of_find?_eq_some h), by simpa using List.find?_some h⟩

/-- What a row of the spec's map makes of any fields is well-formed: LOADI's immediate is the 16-bit field and a jump's
target the 24-bit one (R65, R66). -/
theorem wellFormed_build_row (f : Fields) (m : Mnemonic) : (f.build m.row).wellFormed = true := by
  cases m
  case loadi => exact imm16InRange_toInt f.imm16
  case jmp | jz | jnz | jc | jnc | call => exact imm24InRange_toInt f.imm24
  all_goals rfl

theorem decodeWord_of_illegal {w : Word} (h : 0x20 < (decodeFields w).opcode.toNat) :
    decodeWord w = .error (.invalidOpcode (decodeFields w).opcode) := by
  have unlisted : Config.opcodeMap.rowOf (decodeFields w).opcode = none := by
    rw [OpcodeMap.rowOf_eq_none_iff, mem_numbers_default]
    omega
  simp only [decodeWord_default, decodeWith, unlisted]

/-- Settles O6: the numbers the map lists are those up to 0x20, and their rows make well-formed instructions. -/
theorem legalExactlyUpToOpcode32 : Obligations.LegalExactlyUpToOpcode32 := by
  refine fun w => ⟨fun legal => ?_, decodeWord_of_illegal⟩
  have listed : Config.opcodeMap.rowOf (decodeFields w).opcode ≠ none := by
    rw [ne_eq, OpcodeMap.rowOf_eq_none_iff, not_not, mem_numbers_default]
    exact legal
  obtain ⟨row, hrow⟩ := Option.ne_none_iff_exists'.mp listed
  obtain ⟨own, number⟩ := rowOf_default hrow
  refine ⟨(decodeFields w).build row, ?_, ?_, ?_⟩
  · rw [decodeWord_default, decodeWith_eq_ok hrow]
  · rw [Fields.mnemonic_build, Mnemonic.opcode, own, number]
  · rw [← own]
    exact wellFormed_build_row _ _

/-! ### Bits that an instruction does not use (R64, R69) -/

section
variable {w w' mask : Word} (h : w &&& mask = w' &&& mask)
include h

/-- Words that agree under a mask agree on every place that the mask covers. -/
theorem extractLsb'_eq_of_covered {lo n : Nat} (hm : mask.extractLsb' lo n = BitVec.allOnes n) :
    w.extractLsb' lo n = w'.extractLsb' lo n := by
  have := congrArg (BitVec.extractLsb' lo n) h
  rwa [BitVec.extractLsb'_and, BitVec.extractLsb'_and, hm, BitVec.and_allOnes, BitVec.and_allOnes] at this

theorem regField_eq_of_covered {lo : Nat} (hm : regField lo mask = 15) : regField lo w = regField lo w' :=
  congrArg BitVec.toFin (extractLsb'_eq_of_covered h (BitVec.toFin_inj.mp hm))

/-- A register field that the mask covers is the same in both words. -/
theorem reg_eq_of_covered {field : RegField} (hm : (decodeFields mask).reg field = 15) :
    (decodeFields w).reg field = (decodeFields w').reg field := by
  cases field <;> exact regField_eq_of_covered h hm

/-- An immediate field that the mask covers, and so reads as -1 in it, is the same in both words. -/
theorem imm_eq_of_covered {format : Format} (hm : (decodeFields mask).imm format = -1) :
    (decodeFields w).imm format = (decodeFields w').imm format := by
  cases format
  case r => rfl
  case i => exact congrArg BitVec.toInt (extractLsb'_eq_of_covered h (BitVec.toInt_inj.mp hm))
  case j => exact congrArg BitVec.toInt (extractLsb'_eq_of_covered h (BitVec.toInt_inj.mp hm))

end

/-- The used bits of an instruction cover its opcode. -/
theorem usedBits_opcode (m : Mnemonic) : (decodeFields (usedBits m)).opcode = BitVec.allOnes 8 := by cases m <;> rfl

/-- The used bits of an instruction cover the fields that its row reads. -/
theorem usedBits_reg (f : Fields) (m : Mnemonic) :
    ∀ e ∈ (f.build m.row).operands.placed m.row, (decodeFields (usedBits m)).reg e.1 = 15 := by
  have covered : ((f.build m.row).operands.placed m.row).all
      (fun e => (decodeFields (usedBits m)).reg e.1 == 15) = true := by
    cases m <;> rfl
  exact fun e he => eq_of_beq (List.all_eq_true.mp covered e he)

/-- The used bits of an instruction with an immediate cover its field. -/
theorem usedBits_imm (f : Fields) (m : Mnemonic) (h : (f.build m.row).operands.imm.isSome = true) :
    (decodeFields (usedBits m)).imm m.row.format = -1 := by
  cases m
  case loadi | jmp | jz | jnz | jc | jnc | call => rfl
  all_goals cases h

/-- A row makes the same instruction of words that agree on the bits its mnemonic uses. -/
theorem build_eq_of_usedBits {m : Mnemonic} {w w' : Word} (h : w &&& usedBits m = w' &&& usedBits m) :
    (decodeFields w').build m.row = (decodeFields w).build m.row := by
  obtain ⟨hreg, himm⟩ := (decodeFields w).hold_build m.row
  refine Fields.build_of_hold (Fields.mnemonic_build _ _).symm ⟨fun e he => ?_, fun v hv => ?_⟩
  · rw [← reg_eq_of_covered h (usedBits_reg _ m e he), hreg e he]
  · rw [← imm_eq_of_covered h (usedBits_imm _ m (Option.isSome_of_eq_some hv)), himm v hv]

/-- Settles O5: both words have the opcode's row, which makes the same instruction of both. -/
theorem unusedBitsAreDontCare : Obligations.UnusedBitsAreDontCare := by
  intro m w w' hm h
  obtain ⟨row, hrow, rfl⟩ := Option.map_eq_some_iff.mp hm
  have opcode : (decodeFields w).opcode = (decodeFields w').opcode :=
    extractLsb'_eq_of_covered h (usedBits_opcode row.mnemonic)
  have same := build_eq_of_usedBits h
  rw [(rowOf_default hrow).1] at same
  rw [decodeWord_default, decodeWord_default, decodeWith_eq_ok hrow, decodeWith_eq_ok (opcode ▸ hrow), same]
  exact ⟨rfl, _, rfl⟩

/-- Settles O1: the words as numbers, each run through the decoder. -/
theorem wordsOfTheVectorsDecode : Obligations.WordsOfTheVectorsDecode := by
  unfold Obligations.WordsOfTheVectorsDecode
  decide

end Sys2Proof

namespace Sys2Proof.Machine

/-- The opcode of a word in memory is its byte at the highest address (R59, R60, D5). -/
theorem opcode_loadWord (s : State) (addr : Word) :
    (decodeFields (s.loadWord addr)).opcode = s.mem.read (addr.toNat + 3) := by
  apply BitVec.eq_of_toNat_eq
  have h0 := (s.mem.read addr.toNat).isLt
  have h1 := (s.mem.read (addr.toNat + 1)).isLt
  have h2 := (s.mem.read (addr.toNat + 2)).isLt
  have h3 := (s.mem.read (addr.toNat + 3)).isLt
  simp only [decodeFields, BitVec.extractLsb'_toNat, toNat_loadWord, Nat.shiftRight_eq_div_pow]
  omega

/-- Settles O37: the byte at pc + 3 is the opcode, the word is rejected, and the step raises the fault. -/
theorem illegalOpcodeFaults : Obligations.IllegalOpcodeFaults := by
  intro s hs hf hop
  have rejected := decodeWord_of_illegal (w := s.loadWord s.pc) (by rw [opcode_loadWord]; exact hop)
  have fault := engineStep_of_decodeWord_error hs ((canFetch_iff s).mpr hf) rejected
  exact ⟨fault, congrArg outcomeOf fault⟩

end Sys2Proof.Machine
end

section
/-! Proofs of the arithmetic family (40_arithmetic.md): the state a result leaves, the flag unit at the default XLEN, and
the faults of DIV, MOD, CALL and RET. -/

namespace Sys2Proof.Machine
open Sys2Proof.Machine.Claims

/-! ### The state an instruction with a result and flags leaves (R78) -/

/-- The state after an instruction that writes a result and the flags and advances. -/
def State.withResult (s : State) (rd : RegIdx) (r : Word) (f : Flags) : State :=
  ((s.setReg rd r).setFlags f).advance

section
variable (s : State) (rd : RegIdx) (r : Word) (f : Flags)

@[simp] theorem State.withResult_reg : (s.withResult rd r f).reg rd = r := by
  rw [withResult, advance_reg, setFlags_reg, setReg_reg, if_pos rfl]

@[simp] theorem State.withResult_flags : (s.withResult rd r f).flags = f := rfl

@[simp] theorem State.withResult_pc : (s.withResult rd r f).pc = s.pc + 4#32 := rfl

theorem onlyRegisters_withResult : OnlyRegisters [rd] s (s.withResult rd r f) := by
  refine ⟨fun q hq => ?_, rfl, fun _ => rfl, ⟨rfl, rfl, rfl, rfl, rfl, rfl, rfl, rfl, rfl, rfl, rfl, rfl⟩⟩
  rw [List.mem_singleton] at hq
  rw [State.withResult, State.advance_reg, State.setFlags_reg, State.setReg_reg, if_neg hq]
end

/-! ### The flag unit (R80 to R85) -/

theorem isZero_iff (r : Word) : isZero r = true ↔ r = 0#32 := by rw [isZero_xlen, beq_iff_eq]

theorem signBit_eq_getLsbD (r : Word) : signBit Config.xlen r = r.getLsbD 31 := by
  rw [signBit_xlen, BitVec.msb_eq_getLsbD_last]

/-- Z and N of a result with C and V kept (R80, R88, D16). -/
theorem flagsZNOfResult_withResult (s : State) (rd : RegIdx) (r : Word) :
    FlagsZNOfResult rd s (s.withResult rd r (flagsZN s.flags r)) := by
  rw [FlagsZNOfResult, State.withResult_reg, State.withResult_flags]
  exact ⟨isZero_iff r, signBit_eq_getLsbD r, rfl, rfl⟩

theorem signedOverflow_iff (v : Int) : signedOverflow v = true ↔ ¬FitsSigned v := by
  rw [signedOverflow_xlen, Bool.or_eq_true, decide_eq_true_iff, decide_eq_true_iff, FitsSigned]
  omega

section
variable (a b : Word)

theorem flagsAdd_c_iff : (flagsAdd a b).c = true ↔ (a + b).toNat < a.toNat := decide_eq_true_iff

theorem flagsAdd_v_iff : (flagsAdd a b).v = true ↔ ¬FitsSigned (a.toInt + b.toInt) := by
  rw [flagsAdd, signedOf_xlen, signedOf_xlen, signedOverflow_iff]

theorem flagsSub_c_iff : (flagsSub a b).c = true ↔ a.toNat < b.toNat := decide_eq_true_iff

theorem flagsSub_v_iff : (flagsSub a b).v = true ↔ ¬FitsSigned (a.toInt - b.toInt) := by
  rw [flagsSub, signedOf_xlen, signedOf_xlen, signedOverflow_iff]

theorem flagsMul_c_iff (old : Flags) :
    (flagsMul .signedProduct old a b).c = true ↔ 2 ^ 32 ≤ a.toNat * b.toNat := decide_eq_true_iff

theorem flagsMul_v_iff (old : Flags) :
    (flagsMul .signedProduct old a b).v = true ↔ ¬FitsSigned (a.toInt * b.toInt) := by
  rw [flagsMul, mulV, signedOf_xlen, signedOf_xlen, signedOverflow_iff]

theorem saddOverflow_iff : a.saddOverflow b = true ↔ ¬FitsSigned (a.toInt + b.toInt) := by
  rw [BitVec.saddOverflow, Bool.or_eq_true, decide_eq_true_iff, decide_eq_true_iff, FitsSigned]
  omega

theorem ssubOverflow_iff : a.ssubOverflow b = true ↔ ¬FitsSigned (a.toInt - b.toInt) := by
  rw [BitVec.ssubOverflow, Bool.or_eq_true, decide_eq_true_iff, decide_eq_true_iff, FitsSigned]
  omega

/-- A sum overflows when its sign is neither operand's (R81). -/
theorem flagsAdd_v_xor : (flagsAdd a b).v = ((a ^^^ (a + b)) &&& (b ^^^ (a + b))).getLsbD 31 := by
  have signs : ∀ x y r : Bool, (x == y && !(r == x)) = ((x ^^ r) && (y ^^ r)) := by decide
  have overflow : (flagsAdd a b).v = a.saddOverflow b :=
    Bool.eq_iff_iff.mpr ((flagsAdd_v_iff a b).trans (saddOverflow_iff a b).symm)
  rw [overflow, BitVec.saddOverflow_eq, BitVec.getLsbD_and, BitVec.getLsbD_xor, BitVec.getLsbD_xor]
  simp only [BitVec.msb_eq_getLsbD_last]
  exact signs _ _ _

/-- A difference overflows when the operands' signs differ and its sign is not the first one's (R83). -/
theorem flagsSub_v_xor : (flagsSub a b).v = ((a ^^^ b) &&& (a ^^^ (a - b))).getLsbD 31 := by
  have signs : ∀ x y r : Bool, (!x && y && r || x && !y && !r) = ((x ^^ y) && (x ^^ r)) := by decide
  have overflow : (flagsSub a b).v = a.ssubOverflow b :=
    Bool.eq_iff_iff.mpr ((flagsSub_v_iff a b).trans (ssubOverflow_iff a b).symm)
  rw [overflow, BitVec.ssubOverflow_eq, BitVec.getLsbD_and, BitVec.getLsbD_xor, BitVec.getLsbD_xor]
  simp only [BitVec.msb_eq_getLsbD_last]
  exact signs _ _ _

/-- The wrapped sum is below an operand exactly when the exact one does not fit 32 bits (R82). -/
theorem toNat_add_lt_iff : (a + b).toNat < a.toNat ↔ 2 ^ 32 ≤ a.toNat + b.toNat := by
  have ha := a.isLt
  have hb := b.isLt
  rw [BitVec.toNat_add]
  omega

theorem toNat_sub_eq_emod : ((a - b).toNat : Int) = ((a.toNat : Int) - b.toNat) % 2 ^ 32 := by
  have hb := b.isLt
  rw [BitVec.toNat_sub]
  omega

/-- Negating borrows from every operand but 0 (D15). -/
theorem flagsSub_zero_c_iff : (flagsSub 0#32 a).c = true ↔ a ≠ 0#32 := by
  rw [flagsSub_c_iff, BitVec.toNat_zero, Nat.pos_iff_ne_zero, ← BitVec.toNat_ne_iff_ne, BitVec.toNat_zero]

/-- Only the least signed number has a negative that does not fit (D15). -/
theorem flagsSub_zero_v_iff : (flagsSub 0#32 a).v = true ↔ a = 0x80000000#32 := by
  have low := a.le_toInt
  have high := a.toInt_lt
  have least : (0x80000000#32).toInt = -(2 ^ 31) := by decide
  rw [flagsSub_v_iff, BitVec.toInt_zero, FitsSigned, ← BitVec.toInt_inj, least]
  omega

end

/-! ### The statements on arithmetic that completes -/

/-- Settles O7, from the sum of words and the flag unit's lemmas on the operands before the write. -/
theorem addWritesSumAndFlags : Obligations.AddWritesSumAndFlags := by
  intro rd rs1 rs2 s
  refine ⟨rfl, s.withResult rd _ _, exec_add rd rs1 rs2 s, ?_⟩
  rw [State.withResult_reg, State.withResult_flags]
  exact ⟨BitVec.toNat_add _ _, isZero_iff _, signBit_eq_getLsbD _, flagsAdd_c_iff _ _, flagsAdd_v_iff _ _, rfl,
    onlyRegisters_withResult s rd _ _⟩

/-- Settles O8: as ADD, with both forms of the overflow. -/
theorem subWritesDifferenceAndFlags : Obligations.SubWritesDifferenceAndFlags := by
  intro rd rs1 rs2 s
  refine ⟨rfl, s.withResult rd _ _, exec_sub rd rs1 rs2 s, ?_⟩
  rw [State.withResult_reg, State.withResult_flags]
  exact ⟨toNat_sub_eq_emod _ _, isZero_iff _, signBit_eq_getLsbD _, flagsSub_c_iff _ _, flagsSub_v_iff _ _,
    flagsSub_v_xor _ _, rfl, onlyRegisters_withResult s rd _ _⟩

/-- Settles O9: MUL by the flags of a product, NEG as the difference from 0. -/
theorem mulAndNegWriteResultAndFlags : Obligations.MulAndNegWriteResultAndFlags := by
  intro rd rs1 rs2 s
  refine ⟨⟨s.withResult rd _ _, exec_mul rd rs1 rs2 s, ?_⟩, ⟨s.withResult rd _ _, exec_neg rd rs1 s, ?_⟩⟩
  · rw [State.withResult_reg, State.withResult_flags]
    exact ⟨BitVec.toNat_mul _ _, isZero_iff _, signBit_eq_getLsbD _, flagsMul_c_iff _ _ _, flagsMul_v_iff _ _ _, rfl,
      onlyRegisters_withResult s rd _ _⟩
  · have negated : (0#32 - s.reg rs1).toNat = (2 ^ 32 - (s.reg rs1).toNat) % 2 ^ 32 := by
      rw [BitVec.zero_sub, BitVec.toNat_neg]
    rw [State.withResult_reg, State.withResult_flags]
    exact ⟨negated, isZero_iff _, signBit_eq_getLsbD _, flagsSub_zero_c_iff _, flagsSub_zero_v_iff _, rfl,
      onlyRegisters_withResult s rd _ _⟩

/-- Settles O10: a non-zero divisor passes the check, and the results are Euclid's quotient and remainder. -/
theorem divAndModCompleteOnNonZeroDivisor : Obligations.DivAndModCompleteOnNonZeroDivisor := by
  intro rd rs1 rs2 s hd
  have passes : (s.reg rs2 != 0#32) = true := bne_iff_ne.mpr hd
  have positive : 0 < (s.reg rs2).toNat := Nat.pos_of_ne_zero (BitVec.toNat_ne_iff_ne.mpr hd)
  refine ⟨s.withResult rd _ _, s.withResult rd _ _, (exec_div rd rs1 rs2 s).trans (guarded_pos _ _ passes),
    (exec_mod rd rs1 rs2 s).trans (guarded_pos _ _ passes), ?_⟩
  rw [State.withResult_reg, State.withResult_reg, BitVec.toNat_udiv, BitVec.toNat_umod]
  exact ⟨(Nat.div_add_mod' _ _).symm, Nat.mod_lt _ positive, flagsZNOfResult_withResult s rd _,
    flagsZNOfResult_withResult s rd _, rfl, rfl, onlyRegisters_withResult s rd _ _, onlyRegisters_withResult s rd _ _⟩

/-- Settles O11, from the other forms of the two flags of a sum. -/
theorem addCarryAndOverflowInTheirOtherForms : Obligations.AddCarryAndOverflowInTheirOtherForms := by
  intro rd rs1 rs2 s t h
  have ht : s.withResult rd (s.reg rs1 + s.reg rs2) (flagsAdd (s.reg rs1) (s.reg rs2)) = t :=
    Host.Outcome.next.inj ((exec_add rd rs1 rs2 s).symm.trans h)
  rw [← ht, State.withResult_reg, State.withResult_flags]
  exact ⟨(flagsAdd_c_iff _ _).trans (toNat_add_lt_iff _ _), flagsAdd_v_xor _ _⟩

/-! ### Faults (R141) -/

/-- An instruction that faults ends the step with the fault and the state as it was (R141). -/
theorem executeDecoded_of_fault {i : Instr} {s : State} {f : Fault} (h : exec i s = .fault f) :
    executeDecoded i s = (.error f, s) := by
  rw [executeDecoded, execWith_default, h]

/-- Settles O12: the instruction's check fails, so it faults, and a fault changes nothing. -/
theorem divideAndStackFaultsHaveNoEffect : Obligations.DivideAndStackFaultsHaveNoEffect := by
  intro rd rs1 rs2 target s
  refine ⟨fun hz => ?_, fun hw => ?_, fun hr => ?_⟩
  · have fails : ¬(s.reg rs2 != 0#32) = true := fun h => bne_iff_ne.mp h hz
    exact ⟨executeDecoded_of_fault ((exec_div rd rs1 rs2 s).trans (guarded_neg _ _ fails)),
      executeDecoded_of_fault ((exec_mod rd rs1 rs2 s).trans (guarded_neg _ _ fails))⟩
  · rw [← canWrite_iff] at hw
    exact executeDecoded_of_fault ((exec_call target s).trans (guarded_neg _ _ hw))
  · rw [← canRead_iff] at hr
    exact executeDecoded_of_fault ((exec_ret s).trans (guarded_neg _ _ hr))

end Sys2Proof.Machine
end

section
/-! Proofs of the logical and shift family (41_logical_shift.md): what the state with a result and its Z and N keeps,
and the shift amount as a remainder. -/

namespace Sys2Proof.Machine
open Sys2Proof.Machine.Claims

/-- What the logical and shift instructions share, whatever the result: Z and N from it, the PC, the frame (R88). -/
theorem znResult_flags_pc_frame (s : State) (rd : RegIdx) (r : Word) :
    FlagsZNOfResult rd s (s.withResult rd r (flagsZN s.flags r)) ∧
      (s.withResult rd r (flagsZN s.flags r)).pc = s.pc + 4#32 ∧
      OnlyRegisters [rd] s (s.withResult rd r (flagsZN s.flags r)) :=
  ⟨flagsZNOfResult_withResult s rd r, State.withResult_pc s rd r _, onlyRegisters_withResult s rd r _⟩

/-- The low 5 bits of a word are its remainder by 32 (R89). -/
theorem shiftAmount_eq_mod (v : Word) : shiftAmount v = v.toNat % 32 := by
  rw [shiftAmount, BitVec.toNat_and]
  exact Nat.and_two_pow_sub_one_eq_mod v.toNat 5

/-- SHL's result as a product, wrapped at the width (R94). -/
theorem toNat_shiftLeft_shiftAmount (a v : Word) :
    (a <<< shiftAmount v).toNat = a.toNat * 2 ^ (v.toNat % 32) % 2 ^ 32 := by
  rw [BitVec.toNat_shiftLeft, Nat.shiftLeft_eq, shiftAmount_eq_mod]

/-- SHR's result as a quotient (R95, D18). -/
theorem toNat_ushiftRight_shiftAmount (a v : Word) :
    (a >>> shiftAmount v).toNat = a.toNat / 2 ^ (v.toNat % 32) := by
  rw [BitVec.toNat_ushiftRight, Nat.shiftRight_eq_div_pow, shiftAmount_eq_mod]

/-- Settles O13: each result is the word operation, read bit by bit. -/
theorem logicalResultsBitByBit : Obligations.LogicalResultsBitByBit := by
  intro rd rs1 rs2 s
  refine ⟨⟨s.withResult rd _ _, exec_and rd rs1 rs2 s, fun k => ?_, znResult_flags_pc_frame s rd _⟩,
    ⟨s.withResult rd _ _, exec_or rd rs1 rs2 s, fun k => ?_, znResult_flags_pc_frame s rd _⟩,
    ⟨s.withResult rd _ _, exec_xor rd rs1 rs2 s, fun k => ?_, znResult_flags_pc_frame s rd _⟩,
    ⟨s.withResult rd _ _, exec_not rd rs1 s, fun k hk => ?_, znResult_flags_pc_frame s rd _⟩⟩
  · rw [State.withResult_reg, BitVec.getLsbD_and]
  · rw [State.withResult_reg, BitVec.getLsbD_or]
  · rw [State.withResult_reg, BitVec.getLsbD_xor]
  · rw [State.withResult_reg, BitVec.getLsbD_not, decide_eq_true hk, Bool.true_and]

/-- Settles O14: the masked amount is the remainder, and a shift by it multiplies or divides. -/
theorem shiftsByAmountMod32 : Obligations.ShiftsByAmountMod32 := by
  intro rd rs1 rs2 s
  refine ⟨⟨s.withResult rd _ _, exec_shl rd rs1 rs2 s, ?_, znResult_flags_pc_frame s rd _⟩,
    ⟨s.withResult rd _ _, exec_shr rd rs1 rs2 s, ?_, znResult_flags_pc_frame s rd _⟩⟩
  · rw [State.withResult_reg, toNat_shiftLeft_shiftAmount]
  · rw [State.withResult_reg, toNat_ushiftRight_shiftAmount]

end Sys2Proof.Machine
end

section
/-! Proofs of the load and store family (42_memory_ops.md): the bytes of a loaded and of a stored word, the frames of a
load and of a store. -/

namespace Sys2Proof.Machine
open Sys2Proof.Machine.Claims

/-! ### The bytes of a word in memory (R47, R48, D5) -/

/-- Byte k of a loaded word is the byte at k above its address. -/
theorem extractLsb'_loadWord (s : State) (addr : Word) {k : Nat} (hk : k < 4) :
    (s.loadWord addr).extractLsb' (8 * k) 8 = s.mem.read (addr.toNat + k) := by
  apply BitVec.eq_of_toNat_eq
  have h0 := (s.mem.read addr.toNat).isLt
  have h1 := (s.mem.read (addr.toNat + 1)).isLt
  have h2 := (s.mem.read (addr.toNat + 2)).isLt
  have h3 := (s.mem.read (addr.toNat + 3)).isLt
  rw [BitVec.extractLsb'_toNat, toNat_loadWord, Nat.shiftRight_eq_div_pow]
  interval_cases k <;> simp only [Nat.add_zero, Nat.reduceMul] <;> omega

/-- The byte at k above the address of a stored word is the word's byte k. -/
theorem read_storeWord_byte (s : State) (addr v : Word) {k : Nat} (hk : k < 4) :
    (s.storeWord addr v).mem.read (addr.toNat + k) = v.extractLsb' (8 * k) 8 := by
  have byte : 256 ^ k = 2 ^ (8 * k) := by rw [Nat.pow_mul]
  rw [read_storeWord, if_pos (by omega), Nat.add_sub_cancel_left, byte, ← Nat.shiftRight_eq_div_pow]
  rfl

/-- The byte at the address of a stored byte is the low byte of the value (R101). -/
theorem read_storeByte_byte (s : State) (addr v : Word) :
    (s.storeByte addr v).mem.read addr.toNat = v.extractLsb' 0 8 := by
  rw [read_storeByte, if_pos rfl, BitVec.setWidth_eq_extractLsb' (by decide)]

/-- A byte is zero-extended to the loaded register (R100, D22). -/
theorem toNat_setWidth_loadByte (s : State) (addr : Word) :
    ((s.loadByte addr).setWidth 32).toNat = (s.mem.read addr.toNat).toNat := by
  rw [loadByte_eq, BitVec.toNat_setWidth_of_le (by decide)]

/-! ### Frames -/

/-- What the instructions that write one register and no flag share, whatever the value (R17, D20). -/
theorem setReg_advance_frame (s : State) (rd : RegIdx) (v : Word) :
    PlainAdvance s (s.setReg rd v).advance ∧ OnlyRegisters [rd] s (s.setReg rd v).advance :=
  ⟨⟨rfl, rfl⟩, onlyRegisters_withResult s rd v s.flags⟩

/-- An instruction that only changes memory, and that only within a range, keeps all a store must keep. -/
theorem onlyStored_setMem_advance {lo n : Nat} {s : State} {m : Memory}
    (outside : ∀ a, Outside lo n a → m.read a = s.mem.read a) : OnlyStored lo n s (s.setMem m).advance :=
  ⟨fun _ _ => rfl, rfl, rfl, outside, ⟨rfl, rfl, rfl, rfl, rfl, rfl, rfl, rfl, rfl, rfl, rfl, rfl⟩⟩

theorem onlyStored_storeWord_advance (s : State) (addr v : Word) :
    OnlyStored addr.toNat 4 s (s.storeWord addr v).advance :=
  onlyStored_setMem_advance fun a ha => Memory.read_writeBytes_outside s.mem addr.toNat a _ ha

theorem onlyStored_storeByte_advance (s : State) (addr v : Word) :
    OnlyStored addr.toNat 1 s (s.storeByte addr v).advance :=
  onlyStored_setMem_advance fun a ha => Memory.read_writeBytes_outside s.mem addr.toNat a _ ha

/-! ### The statements on loads and stores -/

/-- Settles O15: the check passes, and the register holds the word or the byte of memory. -/
theorem loadsReadReadableBytes : Obligations.LoadsReadReadableBytes := by
  intro rd rs1 rs2 s
  refine ⟨fun readable => ?_, fun readable => ?_⟩
  · have completes := (exec_load rd rs1 rs2 s).trans (guarded_pos _ _ ((canRead_iff s (s.ea rs1 rs2) 4).mpr readable))
    refine ⟨_, completes, fun k hk => ?_, setReg_advance_frame s rd _⟩
    rw [State.advance_reg, State.setReg_reg, if_pos rfl]
    exact extractLsb'_loadWord s (s.ea rs1 rs2) hk
  · have completes := (exec_loadb rd rs1 rs2 s).trans (guarded_pos _ _ ((canRead_iff s (s.ea rs1 rs2) 1).mpr readable))
    refine ⟨_, completes, ?_, setReg_advance_frame s rd _⟩
    rw [State.advance_reg, State.setReg_reg, if_pos rfl]
    exact toNat_setWidth_loadByte s (s.ea rs1 rs2)

/-- Settles O16: the check passes, and memory holds the bytes stored, the rest by the frame of a store. -/
theorem storesWriteWritableBytes : Obligations.StoresWriteWritableBytes := by
  intro rd rs1 rs2 s
  refine ⟨fun writable => ?_, fun writable => ?_⟩
  · have completes := (exec_store rd rs1 rs2 s).trans (guarded_pos _ _ ((canWrite_iff s _ 4).mpr writable))
    exact ⟨_, completes, fun _ hk => read_storeWord_byte s _ _ hk, rfl, onlyStored_storeWord_advance s _ _⟩
  · have completes := (exec_storeb rd rs1 rs2 s).trans (guarded_pos _ _ ((canWrite_iff s _ 1).mpr writable))
    exact ⟨_, completes, read_storeByte_byte s _ _, rfl, onlyStored_storeByte_advance s _ _⟩

/-- Settles O17: each access is behind its check, so it faults, and a fault changes nothing. -/
theorem disallowedAccessFaultsWithNoEffect : Obligations.DisallowedAccessFaultsWithNoEffect := by
  intro rd rs1 rs2 s
  simp only [← canRead_iff, ← canWrite_iff]
  exact ⟨fun h => executeDecoded_of_fault ((exec_load rd rs1 rs2 s).trans (guarded_neg _ _ h)),
    fun h => executeDecoded_of_fault ((exec_loadb rd rs1 rs2 s).trans (guarded_neg _ _ h)),
    fun h => executeDecoded_of_fault ((exec_store rd rs1 rs2 s).trans (guarded_neg _ _ h)),
    fun h => executeDecoded_of_fault ((exec_storeb rd rs1 rs2 s).trans (guarded_neg _ _ h))⟩

end Sys2Proof.Machine
end

section
/-! Proofs of the move and compare family (43_move_compare.md): the state an instruction leaves that writes one register
or only the flags, the flags of a comparison, and the words 1 and 0. -/

namespace Sys2Proof.Machine
open Sys2Proof.Machine.Claims

/-! ### What an instruction leaves that writes one register, or only the flags (R103 to R106, D20) -/

/-- An instruction that writes one register and advances completes with the value in it and all else kept. -/
theorem completes_of_exec_setReg {i : Instr} {s : State} {rd : RegIdx} {v : Word}
    (h : exec i s = .next (s.setReg rd v).advance) :
    ∃ t, exec i s = .next t ∧ t.reg rd = v ∧ PlainAdvance s t ∧ OnlyRegisters [rd] s t := by
  refine ⟨_, h, ?_, setReg_advance_frame s rd v⟩
  rw [State.advance_reg, State.setReg_reg, if_pos rfl]

theorem onlyRegisters_setFlags_advance (s : State) (f : Flags) : OnlyRegisters [] s (s.setFlags f).advance :=
  ⟨fun _ _ => rfl, rfl, fun _ => rfl, ⟨rfl, rfl, rfl, rfl, rfl, rfl, rfl, rfl, rfl, rfl, rfl, rfl⟩⟩

/-! ### The immediate, the words 1 and 0, the flags of a comparison (R65, R104 to R106) -/

/-- The immediate of a well-formed LOADI keeps its sign in the register (R65). -/
theorem toInt_immediate_of_imm16InRange {v : Int} (h : imm16InRange v = true) : (immediate v).toInt = v := by
  rw [imm16InRange_iff] at h
  exact BitVec.toInt_ofInt_eq_self (by decide) (by omega) (by omega)

/-- The result of a set instruction, by the condition that its test decides (R106). -/
theorem boolWord_eq_ite {b : Bool} {p : Prop} [Decidable p] (h : b = true ↔ p) :
    boolWord b = if p then 1#32 else 0#32 := if_congr h rfl rfl

/-- A difference is 0 exactly when the operands are equal (R104). -/
theorem flagsSub_z_iff (a b : Word) : (flagsSub a b).z = true ↔ a = b :=
  (isZero_iff (a - b)).trans sub_eq_zero

/-- The sign bit of a difference, by its exact value wrapped at the width (R104). -/
theorem flagsSub_n_iff (a b : Word) :
    (flagsSub a b).n = true ↔ 2 ^ 31 ≤ ((a.toNat : Int) - b.toNat) % 2 ^ 32 := by
  have wrapped := toNat_sub_eq_emod a b
  rw [flagsSub, signBit_xlen, BitVec.msb_eq_decide, decide_eq_true_iff]
  omega

/-- An AND is 0 exactly when no bit is set in both operands (R105). -/
theorem isZero_and_iff (a b : Word) :
    isZero (a &&& b) = true ↔ ∀ k, k < 32 → ¬(a.getLsbD k = true ∧ b.getLsbD k = true) := by
  rw [isZero_iff, BitVec.eq_of_getLsbD_eq_iff]
  refine forall₂_congr fun k _ => ?_
  rw [BitVec.getLsbD_and, BitVec.getLsbD_zero, ← Bool.not_eq_true, Bool.and_eq_true]

/-! ### The statements on moves, comparisons and set instructions -/

/-- Settles O18: both write one register, and the immediate comes back from it. -/
theorem moveAndLoadiWriteOneRegister : Obligations.MoveAndLoadiWriteOneRegister := by
  intro rd rs1 imm s
  refine ⟨completes_of_exec_setReg (exec_move rd rs1 s), fun wf => ?_⟩
  obtain ⟨t, completes, value, frame⟩ := completes_of_exec_setReg (exec_loadi rd imm s)
  exact ⟨t, completes, value ▸ toInt_immediate_of_imm16InRange wf, frame⟩

/-- Settles O19: the flags are those of the subtraction, and SUB's state has the same. -/
theorem cmpWritesFlagsOfSubOnly : Obligations.CmpWritesFlagsOfSubOnly := by
  intro rs1 rs2 s
  refine ⟨rfl, _, exec_cmp rs1 rs2 s, flagsSub_z_iff _ _, flagsSub_n_iff _ _, flagsSub_c_iff _ _, flagsSub_v_iff _ _,
    fun rd u hu => ?_, rfl, onlyRegisters_setFlags_advance s _⟩
  rw [← Host.Outcome.next.inj ((exec_sub rd rs1 rs2 s).symm.trans hu)]
  rfl

/-- Settles O20: Z and N come from the AND of the operands, read bit by bit. -/
theorem testWritesZNOfAndOnly : Obligations.TestWritesZNOfAndOnly := by
  intro rs1 rs2 s
  have sign := signBit_eq_getLsbD (s.reg rs1 &&& s.reg rs2)
  rw [BitVec.getLsbD_and] at sign
  exact ⟨_, exec_test rs1 rs2 s, isZero_and_iff _ _, sign, rfl, rfl, rfl, onlyRegisters_setFlags_advance s _⟩

/-- Settles O21: each writes the word of its test, and the test decides the comparison. -/
theorem setInstructionsWriteComparison : Obligations.SetInstructionsWriteComparison := by
  intro rd rs1 rs2 s
  have differs : boolWord (s.reg rs1 != s.reg rs2) = if s.reg rs1 = s.reg rs2 then 0#32 else 1#32 := by
    rw [boolWord_eq_ite bne_iff_ne, ite_not]
  rw [← boolWord_eq_ite decide_eq_true_iff, ← boolWord_eq_ite decide_eq_true_iff, ← boolWord_eq_ite beq_iff_eq,
    ← differs]
  exact ⟨completes_of_exec_setReg (exec_slt rd rs1 rs2 s), completes_of_exec_setReg (exec_sle rd rs1 rs2 s),
    completes_of_exec_setReg (exec_seq rd rs1 rs2 s), completes_of_exec_setReg (exec_sne rd rs1 rs2 s)⟩

end Sys2Proof.Machine
end

section
/-! Proofs of the control transfer family (44_control_flow.md): a jump as one update of the PC, and what CALL pushes and
RET pops. -/

namespace Sys2Proof.Machine
open Sys2Proof.Machine.Claims

/-! ### The jumps (R111) -/

/-- A jump changes the PC alone, taken or not. -/
theorem jump_eq_pcUpdate (taken : Bool) (target : Int) (s : State) :
    (if taken then s.setPc (immediate target) else s.advance) =
      { s with pc := if taken then BitVec.ofInt 32 target else s.pc + 4#32 } := by
  cases taken <;> rfl

/-- Settles O22: each jump is one update of the PC; for JNZ and JNC, its two values exchanged. -/
theorem jumpsSetOnlyThePc : Obligations.JumpsSetOnlyThePc := by
  intro target s _
  refine ⟨⟨rfl, rfl, rfl, rfl, rfl⟩, exec_jmp target s, ?_, ?_, ?_, ?_⟩
  · rw [exec_jz, jump_eq_pcUpdate]
  · rw [exec_jnz, jump_eq_pcUpdate]
    simp only [Bool.not_eq_true', ← Bool.not_eq_true, ite_not]
  · rw [exec_jc, jump_eq_pcUpdate]
  · rw [exec_jnc, jump_eq_pcUpdate]
    simp only [Bool.not_eq_true', ← Bool.not_eq_true, ite_not]

/-! ### The stack slot of CALL and RET (R117, R118) -/

/-- CALL completes exactly when it may write its slot, and pushes, moves SP and jumps. -/
theorem exec_call_next_iff (target : Int) (s t : State) :
    exec (.call target) s = .next t ↔ RangeAllowed s.prot permWrite (s.sp - 4#32).toNat 4 ∧
      t = ((s.storeWord (s.sp - 4#32) (s.pc + 4#32)).setSp (s.sp - 4#32)).setPc (immediate target) := by
  rw [exec_call, guarded_next_iff, canWrite_iff]

/-- RET completes exactly when it may read its slot, and pops. -/
theorem exec_ret_next_iff (s t : State) :
    exec .ret s = .next t ↔ RangeAllowed s.prot permRead s.sp.toNat 4 ∧
      t = (s.setPc (s.loadWord s.sp)).setSp (s.sp + 4#32) := by
  rw [exec_ret, guarded_next_iff, canRead_iff]

/-- Two states load the same word where they hold the same four bytes (R47). -/
theorem loadWord_congr {s t : State} {addr : Word}
    (same : ∀ k < 4, s.mem.read (addr.toNat + k) = t.mem.read (addr.toNat + k)) :
    s.loadWord addr = t.loadWord addr :=
  congrArg (BitVec.ofNat 32) (Memory.readNat_congr s.mem t.mem addr.toNat 4 _ same)

/-- Settles O23: the check passes, the slot holds the bytes of the return address, and every other byte stands. -/
theorem callPushesReturnAddressAndJumps : Obligations.CallPushesReturnAddressAndJumps := by
  intro target s _ writable
  obtain ⟨-, -, -, outside, -⟩ := onlyStored_storeWord_advance s (s.sp - 4#32) (s.pc + 4#32)
  exact ⟨_, (exec_call_next_iff target s _).mpr ⟨writable, rfl⟩, fun _ hk => read_storeWord_byte s _ _ hk, rfl, rfl,
    fun _ _ => rfl, rfl, outside, ⟨rfl, rfl, rfl, rfl, rfl, rfl, rfl, rfl, rfl, rfl, rfl, rfl⟩⟩

/-- Settles O24: the check passes, and the PC is the word loaded from the slot. -/
theorem retPopsIntoPc : Obligations.RetPopsIntoPc := by
  intro s readable
  exact ⟨_, (exec_ret_next_iff s _).mpr ⟨readable, rfl⟩, fun _ hk => extractLsb'_loadWord s s.sp hk, rfl, rfl,
    fun _ _ => rfl, fun _ => rfl, ⟨rfl, rfl, rfl, rfl, rfl, rfl, rfl, rfl, rfl, rfl, rfl, rfl⟩⟩

/-- Settles O25: RET loads the word that CALL stored, and moves SP back up by what CALL took from it. -/
theorem callThenRetReturns : Obligations.CallThenRetReturns := by
  intro target s t u called sameSp readable untouched
  obtain ⟨-, rfl⟩ := (exec_call_next_iff target s t).mp called
  refine ⟨_, (exec_ret_next_iff u _).mpr ⟨readable, rfl⟩, ?_, ?_⟩
  · rw [sameSp] at untouched
    calc u.loadWord u.sp = u.loadWord (s.sp - 4#32) := congrArg u.loadWord sameSp
      _ = (s.storeWord (s.sp - 4#32) (s.pc + 4#32)).loadWord (s.sp - 4#32) := loadWord_congr untouched
      _ = s.pc + 4#32 := loadWord_storeWord s _ _
  · calc u.sp + 4#32 = s.sp - 4#32 + 4#32 := congrArg (· + 4#32) sameSp
      _ = s.sp := BitVec.sub_add_cancel s.sp 4#32

end Sys2Proof.Machine
end

section
/-! Proofs of the system family (45_system.md): the service that a number selects, the answer in r0 with the frame
around it, and what each service does, one equation per case. -/

namespace Sys2Proof.Machine
open Sys2Proof.Machine.Claims

/-! ### The dispatcher (R121 to R123) -/

/-- The number in x0 selects its service (R123, D4). -/
theorem dispatchSyscall_of_number {s : State} {n : Word} (h0 : s.reg 0 = n) (v : Service)
    (hn : (serviceRow Config.syscallMap n).map (·.service) = some v) :
    dispatchSyscall Config.syscallMap s = runService v s := by
  rw [dispatchSyscall_default, h0, hn]

/-- From 7 on, a number is a file operation's or nobody's (R131, R132, D4). -/
theorem dispatchSyscall_of_seven_le {s : State} (h : 7 ≤ (s.reg 0).toNat) :
    dispatchSyscall Config.syscallMap s = s.setResult Config.minusOne := by
  have fileOp : ∀ row ∈ Config.syscallMap, 7 ≤ row.number.toNat →
      row.service = .openFile ∨ row.service = .closeFile ∨
        row.service = .readFile ∨ row.service = .writeFile := by decide
  unfold dispatchSyscall
  split
  case h_1 row found =>
    have number : row.number = s.reg 0 := by simpa using List.find?_some found
    rcases fileOp row (List.mem_of_find?_eq_some found) (number ▸ h) with e | e | e | e <;> (rw [e]; rfl)
  case h_2 => rfl

/-- SYSCALL advances the PC whatever its number (R121). -/
theorem pc_dispatchSyscall_advance (s : State) : (dispatchSyscall Config.syscallMap s).advance.pc = s.pc + 4#32 :=
  congrArg (· + 4#32) (dispatchSyscall_frame Config.syscallMap s).pc

/-- A service that ends by answering a value has it in r0, with the other registers and the PC as R121 and R122 say. -/
theorem exec_syscall_of_setResult {s t : State} {v : Word}
    (h : dispatchSyscall Config.syscallMap s = t.setResult v) :
    exec .syscall s = .next (t.setResult v).advance ∧ ResultInR0 v s (t.setResult v).advance := by
  have result : (t.setResult v).reg 0 = v := (t.setReg_reg 0 v 0).trans (if_pos rfl)
  rw [← h] at result ⊢
  exact ⟨exec_syscall s, result, (dispatchSyscall_frame Config.syscallMap s).regs, pc_dispatchSyscall_advance s⟩

/-- A service that does nothing but answer changes r0 and the PC alone. -/
theorem exec_syscall_answers_only {s : State} {v : Word}
    (h : dispatchSyscall Config.syscallMap s = s.setResult v) :
    ∃ t, exec .syscall s = .next t ∧ ResultInR0 v s t ∧ { t with regs := s.regs, pc := s.pc } = s := by
  obtain ⟨completes, result⟩ := exec_syscall_of_setResult h
  exact ⟨_, completes, result, rfl⟩

/-! ### PRINT and READ (R125, R126) -/

/-- A range that is not allowed is not empty (D24). -/
theorem ne_zero_of_not_rangeAllowed {t : PageTable} {perm : Prot} {a : Nat} {len : Word}
    (h : ¬RangeAllowed t perm a len.toNat) : len ≠ 0#32 := by
  rintro rfl
  exact h fun k hk => absurd hk (Nat.not_lt_zero k)

theorem sysPrint_of_empty {s : State} (h : s.reg 2 = 0#32) : sysPrint s = s.setResult 0#32 := if_pos h

theorem sysPrint_of_readable {s : State} (h : s.reg 2 ≠ 0#32)
    (hr : RangeAllowed s.prot permRead (s.reg 1).toNat (s.reg 2).toNat) :
    sysPrint s = (s.emit (s.mem.readBytes (s.reg 1).toNat (s.reg 2).toNat)).setResult (s.reg 2) :=
  (if_neg h).trans (if_pos ((canRead_iff s (s.reg 1) _).mpr hr))

theorem sysPrint_of_not_readable {s : State} (hr : ¬RangeAllowed s.prot permRead (s.reg 1).toNat (s.reg 2).toNat) :
    sysPrint s = s.setResult Config.minusOne :=
  (if_neg (ne_zero_of_not_rangeAllowed hr)).trans (if_neg (mt (canRead_iff s (s.reg 1) _).mp hr))

theorem sysRead_of_empty {s : State} (h : s.reg 2 = 0#32) : sysRead s = s.setResult 0#32 := if_pos h

theorem sysRead_of_writable {s : State} (h : s.reg 2 ≠ 0#32)
    (hw : RangeAllowed s.prot permWrite (s.reg 1).toNat (s.reg 2).toNat) :
    sysRead s =
      (s.consumeReply.setMem (s.mem.writeBytes (s.reg 1).toNat (s.inputBytes (s.reg 2).toNat))).setResult
        (BitVec.ofNat 32 (s.inputBytes (s.reg 2).toNat).length) :=
  (if_neg h).trans (if_pos ((canWrite_iff s (s.reg 1) _).mpr hw))

theorem sysRead_of_not_writable {s : State} (hw : ¬RangeAllowed s.prot permWrite (s.reg 1).toNat (s.reg 2).toNat) :
    sysRead s = s.setResult Config.minusOne :=
  (if_neg (ne_zero_of_not_rangeAllowed hw)).trans (if_neg (mt (canWrite_iff s (s.reg 1) _).mp hw))

/-- Byte k of a run that is read is the byte at k above its address. -/
theorem Memory.getElem?_readBytes (m : Memory) (a : Nat) {n k : Nat} (hk : k < n) :
    (m.readBytes a n)[k]? = some (m.read (a + k)) := by
  have inside : k < (m.readBytes a n).length := hk.trans_eq (m.length_readBytes a n).symm
  rw [List.getElem?_eq_getElem inside, Memory.getElem_readBytes]

/-- Byte k of a run that is written stands at k above its address. -/
theorem Memory.read_writeBytes_inside (m : Memory) (a : Nat) {bs : List Byte} {k : Nat} (hk : k < bs.length) :
    (m.writeBytes a bs).read (a + k) = bs[k] := by
  rw [Memory.read_writeBytes, dif_pos (by omega)]
  simp only [Nat.add_sub_cancel_left]

/-- A READ takes the oldest answer that is lined up (R126, R153). -/
theorem State.consumeReply_of_cons {s : State} {reply : List Byte} {rest : List (List Byte)}
    (h : s.inputs = reply :: rest) : s.consumeReply.inputs = rest ∧ s.consumeReply.draws = s.draws := by
  simp only [State.consumeReply, h, and_self]

/-- Where none is lined up, it takes the next draw (D33). -/
theorem State.consumeReply_of_nil {s : State} (h : s.inputs = []) :
    s.consumeReply.inputs = [] ∧ s.consumeReply.draws = s.draws + 1 := by
  simp only [State.consumeReply, h, and_self]

theorem State.inputBytes_of_cons {s : State} {reply : List Byte} {rest : List (List Byte)}
    (h : s.inputs = reply :: rest) (len : Nat) : s.inputBytes len = reply.take len := by
  have answer : s.hostReply = reply := by simp only [State.hostReply, h]
  exact congrArg (List.take len) answer

/-- Taking an answer changes nothing but the host's stream. -/
theorem State.consumeReply_frame (s : State) :
    { s.consumeReply with regs := s.regs, pc := s.pc, mem := s.mem, inputs := s.inputs, draws := s.draws } = s := by
  unfold State.consumeReply
  split <;> rfl

/-! ### ALLOC (R129, R133) -/

theorem dvd_align4 (n : Nat) : 4 ∣ align4 n := Nat.dvd_mul_left _ _

theorem le_align4 (n : Nat) : n ≤ align4 n := by
  unfold align4
  omega

theorem align4_lt (n : Nat) : align4 n < n + 4 := by
  unfold align4
  omega

theorem Heap.alloc_of_exceeds {h : Heap} {n : Nat} (hn : h.size.toNat < h.used + n) : h.alloc n = (0, h) :=
  if_pos (decide_eq_true hn)

theorem Heap.alloc_of_fits {h : Heap} {n : Nat} (hn : h.used + n ≤ h.size.toNat) :
    h.alloc n = (h.base.toNat + h.used, { h with used := h.used + align4 n }) :=
  if_neg (by simpa [Heap.fails] using hn)

theorem sysAlloc_of_exceeds {s : State} (h : s.heap.size.toNat < s.heap.used + (s.reg 1).toNat) :
    sysAlloc s = s.setResult 0#32 := by
  rw [sysAlloc, Heap.alloc_of_exceeds h]
  rfl

theorem sysAlloc_of_fits {s : State} (h : s.heap.used + (s.reg 1).toNat ≤ s.heap.size.toNat) :
    sysAlloc s = (s.setHeapUsed (s.heap.used + align4 (s.reg 1).toNat)).setResult
      (BitVec.ofNat 32 (s.heap.base.toNat + s.heap.used)) := by
  rw [sysAlloc, Heap.alloc_of_fits h]

/-! ### The statements on HALT and SYSCALL -/

/-- Settles O26: HALT halts and advances, and EXIT sets the exit code besides. -/
theorem haltAndExitHalt : Obligations.HaltAndExitHalt := by
  intro s
  refine ⟨⟨_, exec_halt s, rfl, rfl, rfl⟩, fun h0 => ?_⟩
  have exits : dispatchSyscall Config.syscallMap s = (s.setExitCode (s.reg 1)).halt :=
    dispatchSyscall_of_number h0 .exit rfl
  exact ⟨((s.setExitCode (s.reg 1)).halt).advance, by rw [exec_syscall, exits], rfl, rfl, rfl, rfl⟩

/-- Settles O27, from the frame of the dispatcher. -/
theorem syscallAlwaysCompletes : Obligations.SyscallAlwaysCompletes := by
  intro s
  obtain ⟨regs, -, sp, fp, flags, running, prot, -, -, enabled, singleStep, breakpoints, -⟩ :=
    dispatchSyscall_frame Config.syscallMap s
  exact ⟨_, exec_syscall s, pc_dispatchSyscall_advance s, regs, flags, sp, fp, prot, running, enabled, singleStep,
    breakpoints⟩

/-- Settles O28: the length and the check decide between an empty answer, the output event and -1. -/
theorem printEmitsReadableBytes : Obligations.PrintEmitsReadableBytes := by
  intro s h0
  have prints : dispatchSyscall Config.syscallMap s = sysPrint s := dispatchSyscall_of_number h0 .print rfl
  refine ⟨fun empty => ?_, fun nonempty readable => ?_, fun unreadable => ?_⟩
  · exact exec_syscall_answers_only (prints.trans (sysPrint_of_empty empty))
  · obtain ⟨completes, result⟩ := exec_syscall_of_setResult (prints.trans (sysPrint_of_readable nonempty readable))
    exact ⟨_, _, completes, result, rfl, Memory.length_readBytes _ _ _, fun _ hk => s.mem.getElem?_readBytes _ hk, rfl⟩
  · exact exec_syscall_answers_only (prints.trans (sysPrint_of_not_readable unreadable))

/-- Settles O29: as O28, and where the check passes, the host's answer is taken and written from the address on. -/
theorem readStoresHostBytes : Obligations.ReadStoresHostBytes := by
  intro s h0
  have reads : dispatchSyscall Config.syscallMap s = sysRead s := dispatchSyscall_of_number h0 .read rfl
  refine ⟨fun empty => ?_, fun nonempty writable => ?_, fun unwritable => ?_⟩
  · exact exec_syscall_answers_only (reads.trans (sysRead_of_empty empty))
  · obtain ⟨completes, result⟩ := exec_syscall_of_setResult (reads.trans (sysRead_of_writable nonempty writable))
    exact ⟨_, s.inputBytes (s.reg 2).toNat, completes, length_inputBytes_le s _,
      fun _ _ lined => ⟨State.inputBytes_of_cons lined _, State.consumeReply_of_cons lined⟩,
      State.consumeReply_of_nil, result, fun _ hk => s.mem.read_writeBytes_inside _ hk,
      fun a ha => s.mem.read_writeBytes_outside _ a _ ha, s.consumeReply_frame⟩
  · exact exec_syscall_answers_only (reads.trans (sysRead_of_not_writable unwritable))

/-- Settles O30: the tick is the answer; an amount added at the counters' widths. -/
theorem getTimeAndSleep : Obligations.GetTimeAndSleep := by
  intro s
  refine ⟨fun h0 => exec_syscall_answers_only (dispatchSyscall_of_number h0 .getTime rfl), fun h0 => ?_⟩
  have sleeps : dispatchSyscall Config.syscallMap s =
      ((s.addTick (s.reg 1)).addCycles ((s.reg 1).setWidth 64)).setResult 0#32 :=
    dispatchSyscall_of_number h0 .sleep rfl
  obtain ⟨completes, result⟩ := exec_syscall_of_setResult sleeps
  refine ⟨_, completes, result, BitVec.toNat_add s.tick (s.reg 1), ?_, rfl⟩
  calc (s.dbg.cycles + (s.reg 1).setWidth 64).toNat
      = (s.dbg.cycles.toNat + ((s.reg 1).setWidth 64).toNat) % 2 ^ 64 := BitVec.toNat_add _ _
    _ = (s.dbg.cycles.toNat + (s.reg 1).toNat) % 2 ^ 64 := by rw [BitVec.toNat_setWidth_of_le (by decide)]

/-- Settles O31: the test on the heap decides, and `used` grows by the least multiple of 4 that holds the size. -/
theorem allocAnswersOrFails : Obligations.AllocAnswersOrFails := by
  intro s h0
  have allocates : dispatchSyscall Config.syscallMap s = sysAlloc s := dispatchSyscall_of_number h0 .alloc rfl
  refine ⟨fun exceeds => exec_syscall_answers_only (allocates.trans (sysAlloc_of_exceeds exceeds)), fun fits => ?_⟩
  obtain ⟨completes, result⟩ := exec_syscall_of_setResult (allocates.trans (sysAlloc_of_fits fits))
  have divides : 4 ∣ s.heap.used + align4 (s.reg 1).toNat - s.heap.used := by
    rw [Nat.add_sub_cancel_left]
    exact dvd_align4 _
  exact ⟨_, completes, result, divides, Nat.add_le_add_left (le_align4 _) _, Nat.add_lt_add_left (align4_lt _) _, rfl⟩

/-- In a heap at its place, the block of an ALLOC that fits starts at `used` in the region and ends before the new
`used` (R133, D34). -/
theorem alloc_block {s t : State} (base : s.heap.base = Config.heapBase) (size : s.heap.size = Config.heapSize)
    (h0 : s.reg 0 = 5#32) (fits : s.heap.used + (s.reg 1).toNat ≤ s.heap.size.toNat)
    (h : exec .syscall s = .next t) :
    (t.reg 0).toNat = Config.heapBase.toNat + s.heap.used ∧ s.heap.used + (s.reg 1).toNat ≤ t.heap.used := by
  obtain ⟨u, completes, ⟨result, -, -⟩, -, holds, -, -⟩ := (allocAnswersOrFails s h0).2 fits
  obtain rfl : u = t := Host.Outcome.next.inj (completes.symm.trans h)
  refine ⟨?_, holds⟩
  rw [size, show Config.heapSize.toNat = 0x8000 by decide] at fits
  rw [result, base, BitVec.toNat_ofNat, show Config.heapBase.toNat = 0x4000 by decide]
  omega

/-- Settles O32: the second block starts at the `used` that the first ALLOC left, where the first block has ended. -/
theorem allocatedBlocksAreDisjoint : Obligations.AllocatedBlocksAreDisjoint := by
  intro s t u v inv hs fits first same hu fits' second
  have inv' : MachineInv t := exec_machineInv inv first
  have base : u.heap.base = Config.heapBase := same ▸ inv'.heapBase
  have size : u.heap.size = Config.heapSize := same ▸ inv'.heapSize
  obtain ⟨start, holds⟩ := alloc_block inv.heapBase inv.heapSize hs fits first
  obtain ⟨start', -⟩ := alloc_block base size hu fits' second
  rw [size] at fits'
  rw [← same] at holds
  omega

/-- Settles O33: both only answer. -/
theorem freeFileOpsAndUnknownNumbers : Obligations.FreeFileOpsAndUnknownNumbers :=
  fun _ => ⟨fun h0 => exec_syscall_answers_only (dispatchSyscall_of_number h0 .free rfl),
    fun h => exec_syscall_answers_only (dispatchSyscall_of_seven_le h)⟩

end Sys2Proof.Machine
end

section
/-! Proofs of the exceptions family (60_exceptions.md): the step and its status, run, and the host's commands with one
equation per case of their arguments. -/

namespace Sys2Proof.Machine
open Sys2Proof.Machine.Claims

/-! ### The step (R137, R141) -/

/-- An instruction that completes ends the step with its count and the status after it (R137, R138). -/
theorem executeDecoded_of_next {i : Instr} {s t : State} (h : exec i s = .next t) :
    executeDecoded i s = (t.retire.statusAfter, t.retire) := by
  rw [executeDecoded, execWith_default, h]
  rfl

/-- The status after a completed instruction is never ERROR, so the step answers the next state. -/
theorem outcomeOf_statusAfter (s t : State) : outcomeOf (s.statusAfter, t) = .next t := by
  unfold State.statusAfter
  split
  · rfl
  · split <;> rfl

theorem engineStep_of_halted {s : State} (h : s.halted = true) : engineStep s = (.halted, s) := if_pos h

theorem engineStep_of_atBreakpoint {s : State} (h : s.halted = false) (hb : s.atBreakpoint = true) :
    engineStep s = (.paused, s) := by
  simp [engineStep, h, hb]

/-- A step that ends with ERROR has changed nothing (R141). -/
theorem engineStep_error_state {s t : State} {f : Fault} (h : engineStep s = (.error f, t)) : t = s := by
  rcases engineStep_cases s with ⟨-, e⟩ | ⟨-, -, e⟩ | ⟨g, e⟩ | ⟨i, u, -, -, -, -, e⟩ <;>
    obtain ⟨status, rfl⟩ := Prod.mk.inj (e.symm.trans h)
  · rfl
  · rfl
  · rfl
  · exact absurd status (statusAfter_ne_error _ f)

/-- The bytes at pc decode to `i` only where their word does (R44, R59). -/
theorem decodeWord_of_decode_bytes {s : State} {i : Instr} {rest : List Byte}
    (h : decode (s.mem.readBytes s.pc.toNat 4) = .ok (i, rest)) : decodeWord (s.loadWord s.pc) = .ok i := by
  have fetched := (decode_fetchBytes s).symm.trans h
  cases hw : decodeWord (s.loadWord s.pc) with
  | error e =>
    rw [hw] at fetched
    cases fetched
  | ok j =>
    rw [hw] at fetched
    cases fetched
    rfl

/-! ### What a completed instruction leaves for its count and status (R137, R138) -/

theorem statusAfter_of_halted {s : State} (h : s.halted = true) : s.statusAfter = .halted := if_pos h

theorem statusAfter_of_singleStep {s : State} (h : s.halted = false) (he : s.dbg.enabled = true)
    (hs : s.dbg.singleStep = true) : s.statusAfter = .paused := by
  simp [State.statusAfter, h, he, hs]

theorem statusAfter_of_continues {s : State} (h : s.halted = false)
    (hd : ¬(s.dbg.enabled = true ∧ s.dbg.singleStep = true)) : s.statusAfter = .cont := by
  rw [State.statusAfter, h, if_neg Bool.false_ne_true, if_neg (by simpa using hd)]

/-- Of the services, SLEEP alone writes the debugger's state (R128). -/
theorem runService_dbg {v : Service} (hv : v ≠ .sleep) (s : State) (A : SyscallArgs) :
    (runService v s Params.default A).dbg = s.dbg := by
  cases v with
  | sleep => exact absurd rfl hv
  | print =>
    simp only [runService, sysPrint]
    split
    · rfl
    · split <;> rfl
  | read =>
    simp only [runService, sysRead]
    split
    · rfl
    · split
      · exact s.consumeReply_dbg
      · rfl
  | exit | getTime | alloc | free | openFile | closeFile | readFile | writeFile => rfl

/-- SLEEP has the number 4 and no other (R123, D4). -/
theorem serviceRow_sleep {n : Word} {row : SyscallRow} (h : serviceRow Config.syscallMap n = some row)
    (hv : row.service = .sleep) : n = 4#32 := by
  have all : ∀ row ∈ Config.syscallMap, row.service = .sleep → row.number = 4#32 := by decide
  have hn : row.number = n := by simpa using List.find?_some h
  rw [← hn, all row (List.mem_of_find?_eq_some h) hv]

/-- SYSCALL adds to the cycle counter for number 4 only: the amount of SLEEP (R128). -/
theorem dispatchSyscall_cycles (s : State) : (dispatchSyscall Config.syscallMap s).dbg.cycles =
    s.dbg.cycles + if s.reg 0 = 4#32 then (s.reg 1).setWidth 64 else 0#64 := by
  by_cases h0 : s.reg 0 = 4#32
  · rw [dispatchSyscall_of_number h0 .sleep rfl, if_pos h0]
    rfl
  · rw [if_neg h0, BitVec.add_zero]
    unfold dispatchSyscall
    split
    case h_1 row found =>
      exact congrArg Debugger.cycles (runService_dbg (fun hv => h0 (serviceRow_sleep found hv)) s row.args)
    case h_2 => rfl

/-- No instruction but SYSCALL writes the debugger's state. -/
theorem exec_dbg {i : Instr} {s t : State} (h : exec i s = .next t) (hi : i ≠ .syscall) : t.dbg = s.dbg := by
  cases exec_completion h with
  | serves hs => exact absurd hs hi
  | writesReg | writesFlags | stores | jumps | calls | returns | halts => rfl

/-- No instruction writes the instruction counter; the step counts it (R138). -/
theorem exec_instructions {i : Instr} {s t : State} (h : exec i s = .next t) :
    t.dbg.instructions = s.dbg.instructions := by
  cases exec_completion h with
  | serves => exact (dispatchSyscall_frame Config.syscallMap s).dbgInstructions
  | writesReg | writesFlags | stores | jumps | calls | returns | halts => rfl

/-- Of the instructions, only a SLEEP adds to the cycle counter: its amount (R128). -/
theorem exec_cycles {i : Instr} {s t : State} (h : exec i s = .next t) :
    t.dbg.cycles = s.dbg.cycles + if i = .syscall ∧ s.reg 0 = 4#32 then (s.reg 1).setWidth 64 else 0#64 := by
  by_cases hi : i = .syscall
  · subst hi
    cases h
    simpa using dispatchSyscall_cycles s
  · rw [exec_dbg h hi, if_neg fun sleep => hi sleep.1, BitVec.add_zero]

/-! ### The statements on the step -/

/-- Settles O34: the fetched word decodes to `i`, and the step's outcome is what `exec` answers, counted. -/
theorem stepRunsDecodedInstruction : Obligations.StepRunsDecodedInstruction := by
  intro s i rest hs hf hd
  have runs : engineStep s = executeDecoded i s :=
    engineStep_of_decodeWord_ok hs ((canFetch_iff s).mpr hf) (decodeWord_of_decode_bytes hd)
  rw [step, runs]
  cases h : exec i s with
  | next t => exact (congrArg outcomeOf (executeDecoded_of_next h)).trans (outcomeOf_statusAfter _ _)
  | fault f => exact congrArg outcomeOf (executeDecoded_of_fault h)
  | refused r => exact absurd h (exec_ne_refused i s r)

/-- Settles O35: the first two tests of the step, in their order. -/
theorem haltedAndBreakpointStepsChangeNothing : Obligations.HaltedAndBreakpointStepsChangeNothing := by
  refine fun s => ⟨fun h => ?_, fun h he hb => ?_⟩
  · have halted := engineStep_of_halted h
    exact ⟨halted, congrArg outcomeOf halted⟩
  · have atBreak : s.atBreakpoint = true := by
      rw [State.atBreakpoint_default, Bool.and_eq_true, List.contains_iff_mem]
      exact ⟨he, hb⟩
    have paused := engineStep_of_atBreakpoint h atBreak
    exact ⟨paused, congrArg outcomeOf paused⟩

/-- Settles O38: an instruction's fault is the step's, and of all a step can do, what ends with ERROR has no effect. -/
theorem faultsEndTheStepAndChangeNothing : Obligations.FaultsEndTheStepAndChangeNothing :=
  ⟨fun _ _ _ h => executeDecoded_of_fault h, fun _ _ _ h => ⟨engineStep_error_state h, congrArg outcomeOf h⟩⟩

/-- Settles O39: the count is added to the counters the instruction left, and the status reads the state after it. -/
theorem completedStepCountersAndStatus : Obligations.CompletedStepCountersAndStatus := by
  intro s t i h
  obtain ⟨-, -, -, -, enabled, singleStep, -⟩ := exec_sameHostOwned h
  rw [executeDecoded_of_next h, ← enabled, ← singleStep, State.retire_dbg]
  exact ⟨congrArg (· + 1#64) (exec_instructions h),
    (congrArg (· + 1#64) (exec_cycles h)).trans (add_right_comm _ _ _),
    statusAfter_of_halted, statusAfter_of_singleStep, statusAfter_of_continues⟩

/-! ### run (R139) -/

theorem runLoop_of_cont {s t : State} (h : engineStep s = (.cont, t)) (fuel : Nat) :
    runLoop (fuel + 1) s = runLoop fuel t := by
  rw [runLoop, h]

theorem runLoop_of_halted {s t : State} (h : engineStep s = (.halted, t)) (fuel : Nat) :
    runLoop (fuel + 1) s = (.halted t.exitCode, t) := by
  rw [runLoop, h]

theorem runLoop_of_paused {s t : State} (h : engineStep s = (.paused, t)) (fuel : Nat) :
    runLoop (fuel + 1) s = (.paused, t) := by
  rw [runLoop, h]
  rfl

theorem runLoop_of_error {s t : State} {f : Fault} (h : engineStep s = (.error f, t)) (fuel : Nat) :
    runLoop (fuel + 1) s = (.error f, s) := by
  rw [runLoop, h, engineStep_error_state h]

/-- The loop goes through the steps that answer CONTINUE. -/
theorem runLoop_of_path {n : Nat} {path : Nat → State}
    (hpath : ∀ k, k < n → engineStep (path k) = (.cont, path (k + 1))) (fuel : Nat) :
    runLoop (n + fuel) (path 0) = runLoop fuel (path n) := by
  induction n generalizing path with
  | zero => rw [Nat.zero_add]
  | succ n ih =>
    rw [Nat.succ_add, runLoop_of_cont (hpath 0 n.succ_pos)]
    exact ih (path := fun k => path (k + 1)) fun k hk => hpath (k + 1) (Nat.succ_lt_succ hk)

/-- A loop that stopped by itself ends the run, which clears the running flag (R29). -/
theorem run_of_runLoop {fuel : Nat} {s t : State} {r : RunResult} (hr : r ≠ .outOfFuel)
    (h : runLoop fuel (s.setRunning true) = (r, t)) : run fuel s = (r, t.setRunning false) := by
  rw [run, h]
  split
  case h_1 e => exact absurd (congrArg Prod.fst e) hr
  case h_2 e =>
    cases e
    rfl

/-- A run whose loop stops at the end of a path of CONTINUE steps ends with what the loop answers there. -/
theorem run_of_path {s t : State} {n fuel : Nat} {path : Nat → State} {r : RunResult}
    (h0 : path 0 = s.setRunning true) (hpath : ∀ k, k < n → engineStep (path k) = (.cont, path (k + 1)))
    (hfuel : n < fuel) (stops : ∀ m, runLoop (m + 1) (path n) = (r, t)) (hr : r ≠ .outOfFuel) :
    run fuel s = (r, t.setRunning false) := by
  obtain ⟨m, rfl⟩ := Nat.exists_eq_add_of_lt hfuel
  refine run_of_runLoop hr ?_
  rw [← h0, Nat.add_assoc, runLoop_of_path hpath, stops]

/-- Settles O40: along the path the loop continues, and each other status stops it. -/
theorem runStopsAtTheFirstOtherStatus : Obligations.RunStopsAtTheFirstOtherStatus :=
  fun _ _ _ _ h0 hpath hfuel =>
    ⟨fun h => run_of_path h0 hpath hfuel (runLoop_of_halted (Prod.ext h rfl)) nofun,
      fun _ h => run_of_path h0 hpath hfuel (runLoop_of_error (Prod.ext h rfl)) nofun,
      fun h => run_of_path h0 hpath hfuel (runLoop_of_paused (Prod.ext h rfl)) nofun⟩

/-! ### The host's commands, one equation per case of their arguments (R150, R157 to R162) -/

/-- A command with invalid arguments fails and changes nothing (IB8). -/
theorem perform_of_rejects {c : Command} {s : State} (h : Rejects c s) : perform c s = (.fail, s) := by
  cases c with
  | load bytes addr => exact congrArg okOrFail (s.loadBytes_invalid h)
  | getRegister i => exact congrArg (fun r => valueOrFail s (r.map .word)) (s.hostGetReg_invalid h)
  | setRegister i v => exact congrArg okOrFail (s.hostSetReg_invalid h v)
  | readMemory addr n => exact congrArg (fun r => valueOrFail s (r.map .bytes)) (s.hostReadMem_invalid h)
  | writeMemory addr bytes => exact congrArg okOrFail (s.hostWriteMem_invalid h)
  | getProtection p => exact congrArg (fun r => valueOrFail s (r.map .protection)) (s.hostGetProt_invalid h)
  | setProtection p bits => exact congrArg okOrFail (s.hostSetProt_invalid h bits)
  | breakpointAdd a => exact congrArg okOrFail (s.addBreakpoint_full h.1 h.2)
  | breakpointRemove a => exact congrArg okOrFail (s.removeBreakpoint_absent h)
  | reset | step | run | debuggerEnable | debuggerDisable | singleStepSet | singleStepClear | breakpointClear
  | readCounters | readTick | advanceTick | disassemble | encodeR | encodeI | encodeJ => exact False.elim h

section
variable {s : State}

theorem perform_load {bytes : List Byte} {addr : Word}
    (h : RangeAllowed s.prot permPresent addr.toNat bytes.length) :
    perform (.load bytes addr) s = (.ok, s.setMem (s.mem.writeBytes addr.toNat bytes)) :=
  congrArg okOrFail (s.loadBytes_valid h)

theorem perform_getRegister {i : Nat} (h : i < 16) : perform (.getRegister i) s = (.word (s.reg ⟨i, h⟩), s) :=
  congrArg (fun r : Option Word => valueOrFail s (r.map .word)) (s.hostGetReg_valid h)

theorem perform_setRegister {i : Nat} (h : i < 16) (v : Word) :
    perform (.setRegister i v) s = (.ok, s.setReg ⟨i, h⟩ v) := congrArg okOrFail (s.hostSetReg_valid h v)

theorem perform_readMemory {addr : Word} {n : Nat} (h : RangeAllowed s.prot permRead addr.toNat n) :
    perform (.readMemory addr n) s = (.bytes (s.mem.readBytes addr.toNat n), s) :=
  congrArg (fun r : Option (List Byte) => valueOrFail s (r.map .bytes)) (s.hostReadMem_valid h)

theorem perform_writeMemory {addr : Word} {bytes : List Byte}
    (h : RangeAllowed s.prot permWrite addr.toNat bytes.length) :
    perform (.writeMemory addr bytes) s = (.ok, s.setMem (s.mem.writeBytes addr.toNat bytes)) :=
  congrArg okOrFail (s.hostWriteMem_valid h)

theorem perform_getProtection {p : Nat} (h : p < 256) :
    perform (.getProtection p) s = (.protection (s.prot.entry p), s) :=
  congrArg (fun r : Option Prot => valueOrFail s (r.map .protection)) (s.hostGetProt_valid h)

theorem perform_setProtection {p : Nat} (h : p < 256) (bits : Nat) :
    perform (.setProtection p bits) s = (.ok, s.setProt (s.prot.put p (BitVec.ofNat 4 bits))) :=
  congrArg okOrFail (s.hostSetProt_valid h bits)

theorem perform_breakpointAdd_present {a : Word} (h : a ∈ s.dbg.breakpoints) :
    perform (.breakpointAdd a) s = (.ok, s) := congrArg okOrFail (s.addBreakpoint_present h)

theorem perform_breakpointAdd_new {a : Word} (h : a ∉ s.dbg.breakpoints) (hf : s.dbg.breakpoints.length < 16) :
    perform (.breakpointAdd a) s =
      (.ok, s.setDbg { s.dbg with breakpoints := s.dbg.breakpoints ++ [a] }) :=
  congrArg okOrFail (s.addBreakpoint_new h hf)

theorem perform_breakpointRemove {a : Word} (h : a ∈ s.dbg.breakpoints) :
    perform (.breakpointRemove a) s =
      (.ok, s.setDbg { s.dbg with breakpoints := s.dbg.breakpoints.filter (fun b => b != a) }) :=
  congrArg okOrFail (s.removeBreakpoint_present h)

theorem perform_advanceTick (n : Nat) :
    perform (.advanceTick n) s = (.ok, s.setTick (s.tick + BitVec.ofNat 32 n)) :=
  congrArg (Prod.mk Reply.ok) (s.hostAdvanceTick_default n)
end

/-- A command whose arguments are valid does not fail. -/
theorem perform_ne_fail {c : Command} {s : State} (h : ¬Rejects c s) : (perform c s).1 ≠ .fail := by
  cases c with
  | load bytes addr => rw [perform_load (not_not.mp h)]; nofun
  | getRegister i => rw [perform_getRegister (not_le.mp h)]; nofun
  | setRegister i v => rw [perform_setRegister (not_le.mp h)]; nofun
  | readMemory addr n => rw [perform_readMemory (not_not.mp h)]; nofun
  | writeMemory addr bytes => rw [perform_writeMemory (not_not.mp h)]; nofun
  | getProtection p => rw [perform_getProtection (not_le.mp h)]; nofun
  | setProtection p bits => rw [perform_setProtection (not_le.mp h)]; nofun
  | breakpointAdd a =>
    by_cases ha : a ∈ s.dbg.breakpoints
    · rw [perform_breakpointAdd_present ha]; nofun
    · rw [perform_breakpointAdd_new ha (not_le.mp fun hf => h ⟨ha, hf⟩)]; nofun
  | breakpointRemove a => rw [perform_breakpointRemove (not_not.mp h)]; nofun
  | reset | step | run | debuggerEnable | debuggerDisable | singleStepSet | singleStepClear | breakpointClear
  | readCounters | readTick | advanceTick | disassemble | encodeR | encodeI | encodeJ => nofun

/-! ### What a command other than reset, step and run can do -/

/-- The breakpoint list is one that R150 allows: no address twice, at most 16. -/
def BreakpointsValid (d : Debugger) : Prop := d.breakpoints.Nodup ∧ d.breakpoints.length ≤ 16

/-- Everything a command other than reset, step and run can do to the state: nothing, or one piece of it is written. -/
inductive HostEffect (s : State) : State → Prop
  | nothing : HostEffect s s
  | writesMem (perm : Prot) (a : Nat) (bs : List Byte) (h : RangeAllowed s.prot perm a bs.length) :
    HostEffect s (s.setMem (s.mem.writeBytes a bs))
  | writesReg (r : RegIdx) (v : Word) : HostEffect s (s.setReg r v)
  | writesProt (p : Nat) (e : Prot) (h : p < 256) : HostEffect s (s.setProt (s.prot.put p e))
  | writesTick (v : Word) : HostEffect s (s.setTick v)
  | writesDbg (d : Debugger) (h : BreakpointsValid s.dbg → BreakpointsValid d) : HostEffect s (s.setDbg d)

/-- A new breakpoint in a list that is not full keeps it valid. -/
theorem BreakpointsValid.append {d : Debugger} {a : Word} (ha : a ∉ d.breakpoints) (hf : d.breakpoints.length < 16)
    (h : BreakpointsValid d) : BreakpointsValid { d with breakpoints := d.breakpoints ++ [a] } := by
  refine ⟨h.1.append (List.nodup_singleton a) ?_, ?_⟩
  · exact List.disjoint_singleton.mpr ha
  · rw [List.length_append, List.length_singleton]
    exact hf

theorem BreakpointsValid.filter {d : Debugger} (keep : Word → Bool) (h : BreakpointsValid d) :
    BreakpointsValid { d with breakpoints := d.breakpoints.filter keep } :=
  ⟨h.1.filter keep, (List.length_filter_le _ _).trans h.2⟩

theorem perform_hostEffect {c : Command} (s : State) (hreset : c ≠ .reset) (hstep : c ≠ .step)
    (hrun : ∀ fuel, c ≠ .run fuel) : HostEffect s (perform c s).2 := by
  by_cases h : Rejects c s
  · rw [perform_of_rejects h]
    exact .nothing
  cases c with
  | reset => exact absurd rfl hreset
  | step => exact absurd rfl hstep
  | run fuel => exact absurd rfl (hrun fuel)
  | load bytes addr =>
    rw [perform_load (not_not.mp h)]
    exact .writesMem permPresent _ _ (not_not.mp h)
  | writeMemory addr bytes =>
    rw [perform_writeMemory (not_not.mp h)]
    exact .writesMem permWrite _ _ (not_not.mp h)
  | setRegister i v => rw [perform_setRegister (not_le.mp h)]; exact .writesReg _ v
  | setProtection p bits => rw [perform_setProtection (not_le.mp h)]; exact .writesProt p _ (not_le.mp h)
  | advanceTick n => rw [perform_advanceTick]; exact .writesTick _
  | breakpointAdd a =>
    by_cases ha : a ∈ s.dbg.breakpoints
    · rw [perform_breakpointAdd_present ha]; exact .nothing
    · have hf : s.dbg.breakpoints.length < 16 := not_le.mp fun hf => h ⟨ha, hf⟩
      rw [perform_breakpointAdd_new ha hf]
      exact .writesDbg _ (.append ha hf)
  | breakpointRemove a =>
    rw [perform_breakpointRemove (not_not.mp h)]
    exact .writesDbg _ (.filter _)
  | breakpointClear => exact .writesDbg _ fun _ => ⟨List.nodup_nil, Nat.zero_le _⟩
  | debuggerEnable | debuggerDisable | singleStepSet | singleStepClear => exact .writesDbg _ id
  | getRegister | readMemory | getProtection | readCounters | readTick | disassemble | encodeR | encodeI
  | encodeJ => exact .nothing

/-- None of these effects reaches the PC, SP, FP or the flags (R158). -/
theorem HostEffect.registers {s t : State} (effect : HostEffect s t) :
    t.pc = s.pc ∧ t.sp = s.sp ∧ t.fp = s.fp ∧ t.flags = s.flags := by
  cases effect <;> exact ⟨rfl, rfl, rfl, rfl⟩

/-! ### The invariant under the host's commands -/

/-- Bytes written to an allowed range stay in the address space, whatever permission it was checked for. -/
theorem Memory.writeBytes_inBounds_of_rangeAllowed {t : PageTable} {perm : Prot} {m : Memory} {a : Nat}
    {bs : List Byte} (h : RangeAllowed t perm a bs.length) (hm : m.inBounds) : (m.writeBytes a bs).inBounds := by
  cases bs with
  | nil => exact hm
  | cons b bs => exact Memory.writeBytes_inBounds _ _ _ hm (h.le_memSize (Nat.succ_pos _))

theorem HostEffect.machineInv {s t : State} (effect : HostEffect s t) (hs : MachineInv s) : MachineInv t := by
  cases effect with
  | nothing => exact hs
  | writesMem perm a bs h =>
    exact { hs with
      memCanonical := Memory.writeBytes_wf _ _ _ hs.memCanonical
      memInBounds := Memory.writeBytes_inBounds_of_rangeAllowed h hs.memInBounds }
  | writesReg | writesTick => exact { hs with }
  | writesProt p e h =>
    have pages : s.prot.length = 256 := hs.oneEntryPerPage
    exact { hs with oneEntryPerPage := (PageTable.length_put _ p e (pages ▸ h)).trans pages }
  | writesDbg d h =>
    obtain ⟨distinct, few⟩ := h ⟨hs.breakpointsDistinct, hs.breakpointsFew⟩
    exact { hs with breakpointsDistinct := distinct, breakpointsFew := few }

/-- The running flag is no part of the invariant. -/
theorem MachineInv.setRunning {s : State} (hs : MachineInv s) (b : Bool) : MachineInv (s.setRunning b) := { hs with }

/-- The step keeps the invariant with every status, ERROR included. -/
theorem engineStep_machineInv {s : State} (hs : MachineInv s) : MachineInv (engineStep s).2 := by
  rcases engineStep_cases s with ⟨-, e⟩ | ⟨-, -, e⟩ | ⟨f, e⟩ | ⟨i, t, -, -, -, ht, e⟩ <;> rw [e]
  · exact hs
  · exact hs
  · exact hs
  · exact (exec_machineInv hs ht).retire

theorem runLoop_machineInv (fuel : Nat) {s : State} (hs : MachineInv s) : MachineInv (runLoop fuel s).2 := by
  induction fuel generalizing s with
  | zero => exact hs
  | succ fuel ih =>
    have stepped : MachineInv (engineStep s).2 := engineStep_machineInv hs
    unfold runLoop
    split <;> rename_i e <;> rw [e] at stepped
    case h_1 => exact ih stepped
    all_goals exact stepped

theorem run_machineInv (fuel : Nat) {s : State} (hs : MachineInv s) : MachineInv (run fuel s).2 := by
  have looped := runLoop_machineInv fuel (hs.setRunning true)
  unfold run
  split <;> rename_i e <;> rw [e] at looped
  · exact looped
  · exact looped.setRunning false

/-- Reset gives every part the invariant speaks of its reset value (R165). -/
theorem hostReset_machineInv (s : State) : MachineInv s.hostReset :=
  have reset : MachineInv State.reset := invariantHoldsAtReset
  { reset with }

/-! ### The statements on the host's commands -/

/-- Settles O52: reset starts anew, step and run are steps one by one, and any other command writes one piece of the
state within its bounds. -/
theorem hostCommandsKeepInvariant : Obligations.HostCommandsKeepInvariant := by
  intro c s hs
  cases c with
  | reset => exact hostReset_machineInv s
  | step => exact engineStep_machineInv hs
  | run fuel => exact run_machineInv fuel hs
  | _ => refine (perform_hostEffect s ?_ ?_ ?_).machineInv hs <;> nofun

/-- Settles O53: invalid arguments fail without effect, and no others fail. -/
theorem commandsFailExactlyOnInvalidArguments : Obligations.CommandsFailExactlyOnInvalidArguments :=
  fun _ _ => ⟨⟨not_imp_not.mp perform_ne_fail, fun h => congrArg Prod.fst (perform_of_rejects h)⟩,
    fun h => congrArg Prod.snd (perform_of_rejects h)⟩

/-- Settles O54: load writes its bytes to memory, and reads elsewhere are the frame of that write. -/
theorem loadNeedsOnlyPresentPages : Obligations.LoadNeedsOnlyPresentPages := by
  intro s bytes addr h
  rw [perform_load h]
  exact ⟨rfl, fun _ hk => s.mem.read_writeBytes_inside _ hk,
    fun a ha => s.mem.read_writeBytes_outside _ a _ ha, rfl⟩

/-- Settles O55: the entry read back after the write of its page, and of any other. -/
theorem setProtectionOverwritesOnePage : Obligations.SetProtectionOverwritesOnePage := by
  intro s p bits h
  rw [perform_setProtection h, perform_getProtection h]
  have entry (q : Nat) := s.prot.entry_put p q (BitVec.ofNat 4 bits)
  exact ⟨rfl, congrArg Reply.protection ((entry p).trans (if_pos rfl)),
    fun q hq => (entry q).trans (if_neg hq), rfl⟩

/-- Settles O56: the two register commands by the validity of the index, and the rest by what any command can do. -/
theorem registerCommands : Obligations.RegisterCommands := by
  refine ⟨fun s i h v => ?_, fun s i v h => ⟨perform_of_rejects h, perform_of_rejects h⟩,
    fun c s hreset hstep hrun => (perform_hostEffect s hreset hstep hrun).registers⟩
  rw [perform_setRegister h]
  have reg (q : RegIdx) := s.setReg_reg ⟨i, h⟩ v q
  exact ⟨perform_getRegister h, rfl, (reg _).trans (if_pos rfl),
    fun q hq => (reg q).trans (if_neg (List.mem_singleton.not.mp hq)), rfl⟩

/-- Settles O57: each command by the outcome of its check. -/
theorem memoryCommandsGoThroughTheCheck : Obligations.MemoryCommandsGoThroughTheCheck := by
  intro s addr n bytes
  refine ⟨fun readable => ?_, fun h => perform_of_rejects h, fun writable => ?_, fun h => perform_of_rejects h⟩
  · exact ⟨_, perform_readMemory readable, s.mem.length_readBytes _ _, fun _ hk => s.mem.getElem?_readBytes _ hk⟩
  · rw [perform_writeMemory writable]
    exact ⟨rfl, fun _ hk => s.mem.read_writeBytes_inside _ hk,
      fun a ha => s.mem.read_writeBytes_outside _ a _ ha, rfl⟩

/-- Settles O58: each command is one update of the debugger or the tick; the tick wraps as a 32-bit value. -/
theorem debuggerAndTimerCommands : Obligations.DebuggerAndTimerCommands := by
  intro s a n
  rw [perform_advanceTick]
  have tick : (s.tick + BitVec.ofNat 32 n).toNat = (s.tick.toNat + n) % 2 ^ 32 := by
    rw [BitVec.toNat_add, BitVec.toNat_ofNat, Nat.add_mod_mod]
  exact ⟨perform_breakpointAdd_present, perform_breakpointAdd_new, perform_breakpointRemove, rfl, rfl, rfl, rfl, rfl,
    rfl, rfl, rfl, tick, rfl⟩

end Sys2Proof.Machine
end

section
/-! PROOF. The reset command (70_reset_and_hazards.md R165): the state it leaves, and O59. -/

namespace Sys2Proof.Machine

/-- R165 (HO11) at the default parameters: reset gives the reset state with the host's streams of the state before it.
The draws are the model's own count of the answers taken (notes/assumptions 4, 13). -/
theorem perform_reset (s : State) :
    perform .reset s = (.ok, { State.reset with output := s.output, inputs := s.inputs, draws := s.draws }) := rfl

/-- Settles O59: the streams are the only pieces of the state that do not have their reset value. -/
theorem resetCommandRestoresResetState : Obligations.ResetCommandRestoresResetState := by
  intro s
  rw [perform_reset]
  exact ⟨rfl, rfl, rfl, rfl⟩

end Sys2Proof.Machine
end
